-- ==== Sys2Proof/Word.lean ====
section
/-! DEFINITION. The word types of the block (00_scope.md R10, 30_encoding.md R90, R91). -/

namespace Sys2Proof

/-- The `u32` of 00_scope.md R10: every integer the block holds or moves that is not a byte or an index. -/
abbrev Word := BitVec 32

/-- A byte, 8 bits (00_scope.md R10). -/
abbrev Byte := BitVec 8

/-- The operation word `w[71:0]` (30_encoding.md R90). -/
abbrev OpWord := BitVec 72

/-- The response word `r[39:0]` (30_encoding.md R91). -/
abbrev RspWord := BitVec 40

end Sys2Proof
end

