-- ==== Sys2Proof/Config.lean ====
section
/-! DEFINITION. What an implementation fixes (00_scope.md R6 to R11) and the free values of
70_reset_and_hazards.md R262. -/

namespace Sys2Proof

/-- The named parameters of 00_scope.md section 4, which the spec leaves open. `Config.wf`
(WellFormed.lean) holds the constraints on them. -/
structure Config where
  /-- `CAPACITY`, the number of byte slots of the receive ring (R6). -/
  capacity : Nat
  /-- `COUNTER_MODULUS`, written `M`: the hardware counter counts 0, 1, ..., M-1, 0, ... (R7). -/
  counterModulus : Nat
  /-- `TICKS_PER_MS`, written `T` (R8). -/
  ticksPerMs : Nat
  /-- `OVERFLOW_PERIOD_MS`, written `P` (R9). -/
  overflowPeriodMs : Nat
  /-- `SERIAL_CONFIG`, an opaque static value that no rule reads (R11). DESIGN CHOICE: its content is
  held as a number, safe (log entry 10). -/
  serialConfig : Nat
  deriving DecidableEq, Repr

/-- The test configuration of 95_test_vectors.md and 92_eei_decisions.md D9, with the capacity 16 of the
source's end-to-end test (R6). DESIGN CHOICE: it is the configuration of `State.reset` only, unsafe for a
claim about `State.reset` (log entry 1). -/
def Config.reference : Config :=
  { capacity := 16, counterModulus := 1024, ticksPerMs := 16, overflowPeriodMs := 64, serialConfig := 0 }

/-- FREE VALUE. The byte that application memory holds at an address no MEM_WR has written: "an arbitrary
byte fixed at the start of the execution" (70_reset_and_hazards.md R262, U12). Safe (log entry 6). -/
opaque Config.initialByte : Word → Byte

/-- FREE VALUE. The byte a ring slot holds before a PUSH wrote it: unspecified after reset
(70_reset_and_hazards.md R262, U10). Safe (log entry 7). -/
opaque Config.initialSlot : Nat → Byte

end Sys2Proof
end

