-- ==== Sys2Proof/Syntax.lean ====
section
/-! DEFINITION. The operation set: one constructor per row of spec/opcode_table.json
(30_encoding.md R92). -/

namespace Sys2Proof

/-- The fourteen operations of 30_encoding.md R92, each with the operands it reads. An ignored operand
field has no place here: two words that differ only in ignored fields are the same operation (R98). -/
inductive Instr where
  /-- Opcode 0x01, `initialize(node_id, ..., timeout_ms)` (43_controller.md R186). -/
  | init (nodeId timeoutMs : Word)
  /-- Opcode 0x02, `pop()` (41_ring.md R146). -/
  | pop
  /-- Opcode 0x03, `len()` (41_ring.md R148). -/
  | len
  /-- Opcode 0x04, `transmit(buffer, length)` (42_txseq.md R161). -/
  | transmit (ptr length : Word)
  /-- Opcode 0x05, `now_ms()` (40_clock.md R122). -/
  | now
  /-- Opcode 0x06, `poll()` (43_controller.md R187). -/
  | poll
  /-- Opcode 0x07, the inspection command (43_controller.md R188). -/
  | rdreg (n : Word)
  /-- Opcode 0x80, the serial-peripheral interrupt handler (43_controller.md R191). -/
  | irqSerial
  /-- Opcode 0x81, the timer-overflow interrupt handler (40_clock.md R124). -/
  | irqTimer
  /-- Opcode 0x90, one tick of the hardware counter (44_environment.md R201). -/
  | tmrTick
  /-- Opcode 0x91, one byte arriving from the bus (44_environment.md R203). -/
  | serRx (b : Byte)
  /-- Opcode 0x92, holding register to shift register (44_environment.md R205). -/
  | serLoad
  /-- Opcode 0x93, the shift register's byte has left (44_environment.md R206). -/
  | serDone
  /-- Opcode 0x94, the application context writes one byte of its memory (44_environment.md R208). -/
  | memWr (addr : Word) (v : Byte)
  deriving DecidableEq, Repr

/-- The three formats of 30_encoding.md R93 to R95, which differ in who may start the operation. -/
inductive Format where
  /-- Format C, a command of the command port (R93). -/
  | command
  /-- Format E, an event operation started by a request line (R94). -/
  | event
  /-- Format X, an environment step (R95). -/
  | environment
  deriving DecidableEq, Repr

/-- The four agents of 00_scope.md R19. -/
inductive Agent where
  | app
  | irq
  | tmr
  | ser
  deriving DecidableEq, Repr

/-- Why a word of a written schedule is malformed (30_encoding.md R97). -/
inductive DecodeError where
  | reservedOpcode (opcode : Byte)
  deriving DecidableEq, Repr

end Sys2Proof
end

