-- ==== Sys2Proof/WellFormed.lean ====
section
/-! DEFINITION. Well-formedness of a configuration (00_scope.md R6 to R9). An `Instr` needs no check of its
own: its operands have the widths of 30_encoding.md R96 by their types, every value of each width is
accepted (43_controller.md R186, 42_txseq.md R161), and a word that encodes no operation is refused by
the decoder (30_encoding.md R97). -/

namespace Sys2Proof

/-- `1 <= CAPACITY < 2^32` (00_scope.md R6). -/
abbrev Config.capacityOk (c : Config) : Prop := 1 ≤ c.capacity ∧ c.capacity < 2 ^ 32

/-- `1 <= M <= 2^32` (00_scope.md R7). -/
abbrev Config.modulusOk (c : Config) : Prop := 1 ≤ c.counterModulus ∧ c.counterModulus ≤ 2 ^ 32

/-- `T >= 1` (00_scope.md R8). -/
abbrev Config.ticksOk (c : Config) : Prop := 1 ≤ c.ticksPerMs

/-- `1 <= P < 2^32` (00_scope.md R9). -/
abbrev Config.periodOk (c : Config) : Prop := 1 ≤ c.overflowPeriodMs ∧ c.overflowPeriodMs < 2 ^ 32

/-- `M = P * T` (00_scope.md R9). -/
abbrev Config.exactPeriod (c : Config) : Prop := c.counterModulus = c.overflowPeriodMs * c.ticksPerMs

/-- A configuration is well formed when every constraint of 00_scope.md section 4 holds. -/
abbrev Config.wf (c : Config) : Prop :=
  c.capacityOk ∧ c.modulusOk ∧ c.ticksOk ∧ c.periodOk ∧ c.exactPeriod

end Sys2Proof
end

