-- ==== Sys2Proof/Decode.lean ====
section
/-! DEFINITION. The operation word: its fields, the decoder, the encoder and the command port's decoder
(30_encoding.md R90, R92 to R98, R100, R103). -/

namespace Sys2Proof

/-- `opcode = w[71:64]` (30_encoding.md R90). -/
def opcodeOf (w : OpWord) : Byte := w.extractLsb' 64 8

/-- `arg0 = w[63:32]` (30_encoding.md R90, R96). -/
def arg0Of (w : OpWord) : Word := w.extractLsb' 32 32

/-- `arg1 = w[31:0]` (30_encoding.md R90, R96). -/
def arg1Of (w : OpWord) : Word := w.extractLsb' 0 32

/-- A byte operand is `arg1[7:0]`; `arg1[31:8]` is ignored (30_encoding.md R96). -/
def byteOf (w : OpWord) : Byte := (arg1Of w).extractLsb' 0 8

/-- The decoder reads `w[71:64]`, looks it up in the opcode map and takes the operands whole
(30_encoding.md R92, R96, R100). A word with a reserved opcode is malformed and refused (R97). -/
def decode (w : OpWord) : Except DecodeError Instr :=
  match (opcodeOf w).toNat with
  | 0x01 => .ok (.init (arg0Of w) (arg1Of w))
  | 0x02 => .ok .pop
  | 0x03 => .ok .len
  | 0x04 => .ok (.transmit (arg0Of w) (arg1Of w))
  | 0x05 => .ok .now
  | 0x06 => .ok .poll
  | 0x07 => .ok (.rdreg (arg0Of w))
  | 0x80 => .ok .irqSerial
  | 0x81 => .ok .irqTimer
  | 0x90 => .ok .tmrTick
  | 0x91 => .ok (.serRx (byteOf w))
  | 0x92 => .ok .serLoad
  | 0x93 => .ok .serDone
  | 0x94 => .ok (.memWr (arg0Of w) (byteOf w))
  | _ => .error (.reservedOpcode (opcodeOf w))

/-- The opcode column of 30_encoding.md R92. -/
def Instr.opcode : Instr → Byte
  | .init _ _ => 0x01
  | .pop => 0x02
  | .len => 0x03
  | .transmit _ _ => 0x04
  | .now => 0x05
  | .poll => 0x06
  | .rdreg _ => 0x07
  | .irqSerial => 0x80
  | .irqTimer => 0x81
  | .tmrTick => 0x90
  | .serRx _ => 0x91
  | .serLoad => 0x92
  | .serDone => 0x93
  | .memWr _ _ => 0x94

/-- The mnemonic column of 30_encoding.md R92. -/
def Instr.mnemonic : Instr → String
  | .init _ _ => "INIT"
  | .pop => "POP"
  | .len => "LEN"
  | .transmit _ _ => "TRANSMIT"
  | .now => "NOW"
  | .poll => "POLL"
  | .rdreg _ => "RDREG"
  | .irqSerial => "IRQ_SERIAL"
  | .irqTimer => "IRQ_TIMER"
  | .tmrTick => "TMR_TICK"
  | .serRx _ => "SER_RX"
  | .serLoad => "SER_LOAD"
  | .serDone => "SER_DONE"
  | .memWr _ _ => "MEM_WR"

/-- The format column of 30_encoding.md R92. -/
def Instr.format : Instr → Format
  | .init _ _ => .command
  | .pop => .command
  | .len => .command
  | .transmit _ _ => .command
  | .now => .command
  | .poll => .command
  | .rdreg _ => .command
  | .irqSerial => .event
  | .irqTimer => .event
  | .tmrTick => .environment
  | .serRx _ => .environment
  | .serLoad => .environment
  | .serDone => .environment
  | .memWr _ _ => .environment

/-- The agent that takes the step (00_scope.md R19). -/
def Instr.agent : Instr → Agent
  | .init _ _ => .app
  | .pop => .app
  | .len => .app
  | .transmit _ _ => .app
  | .now => .app
  | .poll => .app
  | .rdreg _ => .app
  | .irqSerial => .irq
  | .irqTimer => .irq
  | .tmrTick => .tmr
  | .serRx _ => .ser
  | .serLoad => .ser
  | .serDone => .ser
  | .memWr _ _ => .app

/-- The word `{opcode, arg0, arg1}` (30_encoding.md R90). -/
def packWord (opcode : Byte) (arg0 arg1 : Word) : OpWord := opcode ++ arg0 ++ arg1

/-- The words of 30_encoding.md R101; a writer of words sets ignored fields to 0 (R98). -/
def encode : Instr → OpWord
  | .init nodeId timeoutMs => packWord 0x01 nodeId timeoutMs
  | .pop => packWord 0x02 0 0
  | .len => packWord 0x03 0 0
  | .transmit ptr length => packWord 0x04 ptr length
  | .now => packWord 0x05 0 0
  | .poll => packWord 0x06 0 0
  | .rdreg n => packWord 0x07 n 0
  | .irqSerial => packWord 0x80 0 0
  | .irqTimer => packWord 0x81 0 0
  | .tmrTick => packWord 0x90 0 0
  | .serRx b => packWord 0x91 0 (b.setWidth 32)
  | .serLoad => packWord 0x92 0 0
  | .serDone => packWord 0x93 0 0
  | .memWr addr v => packWord 0x94 addr (v.setWidth 32)

/-- The bits of the word that an operation reads; every other bit is ignored (30_encoding.md R94 to R96,
R98). -/
def Instr.usedBits : Instr → OpWord
  | .init _ _ => packWord 0xFF 0xFFFFFFFF 0xFFFFFFFF
  | .pop => packWord 0xFF 0 0
  | .len => packWord 0xFF 0 0
  | .transmit _ _ => packWord 0xFF 0xFFFFFFFF 0xFFFFFFFF
  | .now => packWord 0xFF 0 0
  | .poll => packWord 0xFF 0 0
  | .rdreg _ => packWord 0xFF 0xFFFFFFFF 0
  | .irqSerial => packWord 0xFF 0 0
  | .irqTimer => packWord 0xFF 0 0
  | .tmrTick => packWord 0xFF 0 0
  | .serRx _ => packWord 0xFF 0 0xFF
  | .serLoad => packWord 0xFF 0 0
  | .serDone => packWord 0xFF 0 0
  | .memWr _ _ => packWord 0xFF 0xFFFFFFFF 0xFF

/-- The command port's decoder: only a format C operation can be started there; every other word is
illegal (30_encoding.md R97, line 1 of R103). -/
def decodeCommand (w : OpWord) : Option Instr :=
  match decode w with
  | .ok i => if i.format = .command then some i else none
  | .error _ => none

/-- The word the host numbers: bit 0 is the least significant bit of `w`, the bits from `nbits` up are 0
(30_encoding.md R90: one word of 72 bits). -/
def tableWord (nbits w : Nat) : OpWord := BitVec.ofNat 72 (w % 2 ^ nbits)

/-- The instruction the decoder reads from a word numbered as spec/opcode_table.json numbers it. -/
def decodeTableWord (nbits w : Nat) : Option Instr :=
  match decode (tableWord nbits w) with
  | .ok i => some i
  | .error _ => none

end Sys2Proof
end

