-- ==== Sys2Proof/Machine/State.lean ====
section
/-! DEFINITION. The state of the model (10_state.md R20 to R30, R47 to R50), its reset value (R53), and the
reasons a step can stop. The fields are grouped by the component that owns them; INVENTORY.md gives each
field's name in the spec. -/

namespace Sys2Proof.Machine

/-- A sparse byte store: (key, byte) pairs with strictly rising keys; a key that is not listed has not been
written and holds no value of its own (`Memory.wf` in Ops.lean; log entries 6 and 7). -/
abbrev Memory := List Host.Cell

/-- The sequencer's states (10_state.md R25, 42_txseq.md R160). -/
inductive TxState where
  | idle
  | filling
  | draining
  deriving DecidableEq, Repr

/-- The direction pin, "binary state {Receive, Transmit}" (10_state.md R26). -/
inductive Dir where
  | receive
  | transmit
  deriving DecidableEq, Repr

/-- The events the block emits to the protocol engine (10_state.md R50, 43_controller.md R180). -/
inductive PeEvent where
  | peInit (nodeId : Word)
  | peUpdate
  deriving DecidableEq, Repr

/-- The response statuses (30_encoding.md R99). -/
inductive Status where
  | ok
  | empty
  | busy
  | notInit
  | illegal
  | badReg
  | alreadyInit
  deriving DecidableEq, Repr

/-- One entry of the schedule: a word of a written schedule, which may start any operation
(30_encoding.md R94, R95), or a word the application context presents on the command port, which may start
a command only (R97). DESIGN CHOICE, safe (log entry 2). -/
inductive Entry where
  | word (w : OpWord)
  | port (w : OpWord)
  deriving DecidableEq, Repr

/-- The four latches of the command port (10_state.md R21). -/
structure Port where
  arg0 : Word
  arg1 : Word
  rspStatus : Byte
  rspData : Word
  deriving DecidableEq, Repr

/-- The initialisation record and the enables that INIT alone writes (10_state.md R27, R28). `tx_ie` stands
with the sequencer. -/
structure Control where
  initialized : Bool
  nodeId : Word
  timeoutMs : Word
  rxIe : Bool
  ovfIe : Bool
  tmrRun : Bool
  deriving DecidableEq, Repr

/-- The receive ring buffer (10_state.md R23, R29). `head` and `tail` are indices in `[0, CAPACITY)`. -/
structure Ring where
  slots : Memory
  head : Nat
  headLap : Bool
  tail : Nat
  tailLap : Bool
  overrunCnt : Word
  overrun : Bool
  deriving DecidableEq, Repr

/-- The transmit sequencer, its session, its enable and the direction pin (10_state.md R25 to R27, R29). -/
structure TxSeq where
  state : TxState
  ptr : Word
  len : Word
  cursor : Word
  ie : Bool
  dir : Dir
  busyCnt : Word
  busyErr : Bool
  deriving DecidableEq, Repr

/-- The hardware counter (10_state.md R47): `cnt` in `[0, M)`, the overflow flag, the ghost fault bit. -/
structure Timer where
  cnt : Nat
  ovf : Bool
  ovfLost : Bool
  deriving DecidableEq, Repr

/-- The serial peripheral (10_state.md R48): receive data register and its flag, transmit holding and shift
registers, and the ghost bits `tsr_dir` and `rx_lost`. `rdr` is read only while `rx_ready = 1`; what it holds otherwise
is the model's choice (log entries 8 and 14). -/
structure Serial where
  rdr : Byte
  rxReady : Bool
  thr : Option Byte
  tsr : Option Byte
  tsrDir : Dir
  rxLost : Bool
  deriving DecidableEq, Repr

/-- The complete state of the model (10_state.md R20), with the configuration it runs under (log entry 1)
and the schedule it runs (log entry 2), which are the model's own fields. -/
structure State where
  cfg : Config
  schedule : List Entry
  port : Port
  ctl : Control
  accMs : Word
  ring : Ring
  tx : TxSeq
  tmr : Timer
  ser : Serial
  mem : Memory
  wire : List (Byte × Bool)
  peLog : List PeEvent
  deriving DecidableEq, Repr

/-- The machine stops: an operation whose enabling condition is false was scheduled. A step may occur only
in a state where its condition holds (00_scope.md R16; 93_implementation_defined.md U27: stuck). DEDUCED,
safe: the model stops where the hardware takes no such step (log entry 4). -/
inductive Fault where
  /-- Raised by IRQ_SERIAL when `irq_serial = 0` (43_controller.md R191). Safe. -/
  | irqSerialNotEnabled
  /-- Raised by IRQ_TIMER when `irq_timer = 0` (40_clock.md R124). Safe. -/
  | irqTimerNotEnabled
  /-- Raised by TMR_TICK when `tmr_run = 0` (44_environment.md R200, R201). Safe. -/
  | tmrTickNotEnabled
  /-- Raised by SER_RX when `initialized = 0` (44_environment.md R200, R203). Safe. -/
  | serRxNotEnabled
  /-- Raised by SER_LOAD unless `ser.thr = some(b)` and `ser.tsr = none` (44_environment.md R205). Safe. -/
  | serLoadNotEnabled
  /-- Raised by SER_DONE unless `ser.tsr = some(b)` (44_environment.md R206). Safe. -/
  | serDoneNotEnabled
  deriving DecidableEq, Repr

/-- The step gives no meaning. -/
inductive Refusal where
  /-- An instruction that has no meaning yet, raised by an arm of `exec`. Safe. No arm raises it. -/
  | notModelled (mnemonic : String)
  /-- A word of a written schedule with a reserved opcode is malformed and refused (30_encoding.md R97).
  Raised by the fetch. Safe. -/
  | malformedWord (opcode : Byte)
  /-- An ill-formed configuration is refused (00_scope.md section 4, 93_implementation_defined.md U8).
  Raised by the fetch. DEDUCED, safe (log entry 5). -/
  | illFormedConfig
  deriving DecidableEq, Repr

/-- The state after reset under a configuration (10_state.md R53, 70_reset_and_hazards.md R261). The
contents of `rb` and `mem` are unspecified (free values, log entries 6 and 7); `ser.rdr` is unspecified
and is 0 here (DESIGN CHOICE, unsafe, log entry 8). -/
def State.resetWith (c : Config) : State where
  cfg := c
  schedule := []
  port := { arg0 := 0, arg1 := 0, rspStatus := 0x00, rspData := 0 }
  ctl := { initialized := false, nodeId := 0, timeoutMs := 0, rxIe := false, ovfIe := false, tmrRun := false }
  accMs := 0
  ring := { slots := [], head := 0, headLap := false, tail := 0, tailLap := false, overrunCnt := 0, overrun := false }
  tx := { state := .idle, ptr := 0, len := 0, cursor := 0, ie := false, dir := .receive, busyCnt := 0, busyErr := false }
  tmr := { cnt := 0, ovf := false, ovfLost := false }
  ser := { rdr := 0, rxReady := false, thr := none, tsr := none, tsrDir := .receive, rxLost := false }
  mem := []
  wire := []
  peLog := []

/-- The state after reset, under the reference configuration (log entry 1). -/
def State.reset : State := State.resetWith Config.reference

end Sys2Proof.Machine
end

