-- ==== Sys2Proof/Machine/Operands.lean ====
section
/-! DEFINITION. Operand and result forms: the codes of the response statuses, the response word, the operand
latches, the address of the next transmit byte, the bit values of the small enumerations. -/

namespace Sys2Proof.Machine

/-- The code column of 30_encoding.md R99. -/
def Status.code : Status → Byte
  | .ok => 0x00
  | .empty => 0x01
  | .busy => 0x02
  | .notInit => 0x03
  | .illegal => 0x04
  | .badReg => 0x05
  | .alreadyInit => 0x06

/-- `Idle = 0, Filling = 1, Draining = 2; the value 3 is never held` (10_state.md R25). -/
def TxState.code : TxState → BitVec 2
  | .idle => 0
  | .filling => 1
  | .draining => 2

/-- 1 is Transmit, 0 is Receive (10_state.md R26). -/
def Dir.asserted : Dir → Bool
  | .receive => false
  | .transmit => true

/-- One flag as a one-bit vector. -/
def bit (b : Bool) : BitVec 1 := BitVec.ofBool b

/-- The response word: `r[39:32] = status`, `r[31:0] = data` (30_encoding.md R91). -/
def State.response (s : State) : RspWord := s.port.rspStatus ++ s.port.rspData

/-- The latches ARG0 and ARG1 take the operands of every command word (10_state.md R21). -/
def latchOperands (s : State) (w : OpWord) : State :=
  { s with port := { s.port with arg0 := arg0Of w, arg1 := arg1Of w } }

/-- `EA = (tx_ptr + tx_cursor) mod 2^32`, the one addressing mode of the transmit buffer
(42_txseq.md R172). -/
def State.txAddress (s : State) : Word := s.tx.ptr + s.tx.cursor

end Sys2Proof.Machine
end

