-- ==== Sys2Proof/Machine/Ops.lean ====
section
/-! DEFINITION. The named operations: the byte stores, the primitives of 00_scope.md R15, the response and the
`initialized` check of a command. The block takes no exception and returns from none (60_exceptions.md
R220, R234, R235); an error is a response status (R221), which is `respond`. -/

namespace Sys2Proof.Machine

/-- What a meaning answers. -/
abbrev Result := Host.Outcome State Fault Refusal

/-- The canonical form of a byte store of `bound` bytes: strictly rising keys below `bound`. -/
abbrev Memory.wf (bound : Nat) (m : Memory) : Prop :=
  m.Pairwise (fun c d => c.1 < d.1) ∧ ∀ c ∈ m, c.1 < bound

/-- The byte written at a key, or none where nothing has been written. -/
def Memory.lookup : Memory → Nat → Option Byte
  | [], _ => none
  | (k, b) :: m, a => if a = k then some b else Memory.lookup m a

/-- Writing one byte; the keys stay strictly rising. -/
def Memory.write : Memory → Nat → Byte → Memory
  | [], a, v => [(a, v)]
  | (k, b) :: m, a, v =>
    if a < k then (a, v) :: (k, b) :: m
    else if a = k then (a, v) :: m
    else (k, b) :: Memory.write m a v

/-- `MemRead(addr, 1)`: total, no fault, no side effect (20_memory.md R63). An address no MEM_WR has written
holds an arbitrary byte fixed at the start (70_reset_and_hazards.md R262): a free value (log entry 6). -/
def memRead (s : State) (addr : Word) : Byte :=
  (Memory.lookup s.mem addr.toNat).getD (Config.initialByte addr)

/-- `MemWrite(addr, 1, v)` (00_scope.md R15, 44_environment.md R208). -/
def memWrite (s : State) (addr : Word) (v : Byte) : State :=
  { s with mem := Memory.write s.mem addr.toNat v }

/-- `rb[i]`. A slot no PUSH has written holds an unspecified byte (70_reset_and_hazards.md R262): a free value
(log entry 7). -/
def Ring.slot (r : Ring) (i : Nat) : Byte := (Memory.lookup r.slots i).getD (Config.initialSlot i)

/-- The byte `SerRead()` returns: `ser.rdr` (00_scope.md R15). -/
def serReadByte (s : State) : Byte := s.ser.rdr

/-- The side effect of `SerRead()`: it clears `ser.rx_ready` (00_scope.md R15, 20_memory.md R68). The rules leave
`ser.rdr` any value while `ser.rx_ready = 0` (10_state.md R48, 93_implementation_defined.md U11) and no operation reads
it there; that it keeps the byte just read until SER_RX writes the next one is the model's choice (DESIGN CHOICE,
unsafe, log entry 14). -/
def serRead (s : State) : State := { s with ser := { s.ser with rxReady := false } }

/-- `SerWrite(b)` sets `ser.thr <- some(b)` (00_scope.md R15). -/
def serWrite (s : State) (b : Byte) : State := { s with ser := { s.ser with thr := some b } }

/-- The side effect of `TmrStatusRead()`: it clears `tmr.ovf` (00_scope.md R15, 20_memory.md R68). -/
def tmrStatusRead (s : State) : State := { s with tmr := { s.tmr with ovf := false } }

/-- `emit E` appends `E` to `pe_log` (00_scope.md R15). -/
def emit (s : State) (e : PeEvent) : State := { s with peLog := s.peLog ++ [e] }

/-- `rsp(status, data)`: the response of a command, held until the next command overwrites it (00_scope.md R14,
10_state.md R21). -/
def respond (s : State) (status : Status) (data : Word) : State :=
  { s with port := { s.port with rspStatus := status.code, rspData := data } }

/-- A command that is refused before INIT answers `NOT_INIT` and changes nothing (line 4 of 30_encoding.md
R103, 43_controller.md R185). -/
def ifInitialized (s : State) (run : State) : Result :=
  if s.ctl.initialized then .next run else .next (respond s .notInit 0)

/-- A step that may occur only where its enabling condition holds (00_scope.md R16; log entry 4). -/
def ifEnabled (condition : Bool) (reason : Fault) (run : State) : Result :=
  if condition then .next run else .fault reason

end Sys2Proof.Machine
end

