-- ==== Sys2Proof/Machine/Flags.lean ====
section
/-! DEFINITION. Every derived flag, condition and status word: occupancy (10_state.md R23, 41_ring.md R140),
the peripheral's derived conditions (R48), the request lines (R51), the registers STATUS and PERIPH (R32,
R45), the enabling conditions of the operations (00_scope.md R16) and the level outputs of the ports (R52). -/

namespace Sys2Proof.Machine

/-- `occ()` (10_state.md R23), with `mod` the non-negative remainder (00_scope.md R13). -/
def Ring.occ (capacity : Nat) (r : Ring) : Nat :=
  if r.head = r.tail then (if r.headLap = r.tailLap then 0 else capacity)
  else (((r.head : Int) - r.tail) % capacity).toNat

/-- `empty() = (head == tail and head_lap == tail_lap)` (41_ring.md R140). -/
def Ring.isEmpty (r : Ring) : Bool := r.head == r.tail && r.headLap == r.tailLap

/-- `full() = (head == tail and head_lap != tail_lap)` (41_ring.md R140). -/
def Ring.isFull (r : Ring) : Bool := r.head == r.tail && r.headLap != r.tailLap

/-- `ser.tx_ready = (ser.thr = none)` (10_state.md R48). -/
def Serial.txReady (p : Serial) : Bool := p.thr.isNone

/-- `ser.tx_complete = (ser.thr = none and ser.tsr = none)` (10_state.md R48). -/
def Serial.txComplete (p : Serial) : Bool := p.thr.isNone && p.tsr.isNone

/-- `rx_ie and ser.rx_ready`: the RX sub-behaviour is served (43_controller.md R190). -/
def State.rxCondition (s : State) : Bool := s.ctl.rxIe && s.ser.rxReady

/-- `tx_ie and ser.tx_ready`: the TX sub-behaviour is served (43_controller.md R190). -/
def State.txCondition (s : State) : Bool := s.tx.ie && s.ser.txReady

/-- The request line `irq_serial` (10_state.md R51). -/
def State.irqSerial (s : State) : Bool := s.rxCondition || s.txCondition

/-- The request line `irq_timer` (10_state.md R51). -/
def State.irqTimer (s : State) : Bool := s.ctl.ovfIe && s.tmr.ovf

/-- Register STATUS, bits 31 down to 0 (10_state.md R32). -/
def State.statusReg (s : State) : Word :=
  (0 : BitVec 20) ++ bit s.ring.tailLap ++ bit s.ring.headLap ++ bit s.tx.busyErr ++ bit s.ring.overrun
    ++ bit s.ctl.tmrRun ++ bit s.ctl.ovfIe ++ bit s.ctl.rxIe ++ bit s.tx.ie ++ s.tx.state.code
    ++ bit s.tx.dir.asserted ++ bit s.ctl.initialized

/-- Register PERIPH, bits 31 down to 0 (10_state.md R45). -/
def State.periphReg (s : State) : Word :=
  (0 : BitVec 26) ++ bit s.irqTimer ++ bit s.irqSerial ++ bit s.tmr.ovf ++ bit s.ser.txComplete
    ++ bit s.ser.txReady ++ bit s.ser.rxReady

/-- SER_LOAD is enabled iff `ser.thr = some(b)` and `ser.tsr = none` (44_environment.md R205). -/
def Serial.loadEnabled (p : Serial) : Bool := p.thr.isSome && p.tsr.isNone

/-- SER_DONE is enabled iff `ser.tsr = some(b)` (44_environment.md R206). -/
def Serial.doneEnabled (p : Serial) : Bool := p.tsr.isSome

/-- The enabling condition of each operation (00_scope.md R16; each operation's own rule). -/
def enabled : Instr → State → Bool
  | .init _ _, _ => true
  | .pop, _ => true
  | .len, _ => true
  | .transmit _ _, _ => true
  | .now, _ => true
  | .poll, _ => true
  | .rdreg _, _ => true
  | .irqSerial, s => s.irqSerial
  | .irqTimer, s => s.irqTimer
  | .tmrTick, s => s.ctl.tmrRun
  | .serRx _, s => s.ctl.initialized
  | .serLoad, s => s.ser.loadEnabled
  | .serDone, s => s.ser.doneEnabled
  | .memWr _ _, _ => true

/-- The level outputs of the block (10_state.md R52). The strobes of R52 are the primitives inside the
operations and hold no state (log entry 12). -/
structure Outputs where
  rspStatus : Byte
  rspData : Word
  serRxIe : Bool
  serTxIe : Bool
  serCfg : Nat
  tmrRun : Bool
  tmrOvfIe : Bool
  dir : Bool
  deriving DecidableEq, Repr

/-- What the level outputs show in a state (10_state.md R52). -/
def State.outputs (s : State) : Outputs where
  rspStatus := s.port.rspStatus
  rspData := s.port.rspData
  serRxIe := s.ctl.rxIe
  serTxIe := s.tx.ie
  serCfg := s.cfg.serialConfig
  tmrRun := s.ctl.tmrRun
  tmrOvfIe := s.ctl.ovfIe
  dir := s.tx.dir.asserted

end Sys2Proof.Machine
end

