-- ==== Sys2Proof/Machine/Clock.lean ====
section
/-! DEFINITION. The Elapsed Clock: the time function, NOW and IRQ_TIMER (40_clock.md). -/

namespace Sys2Proof.Machine

/-- `clk(acc, ovf, cnt)`: the sum is taken in the integers and then reduced modulo `2^32` (40_clock.md R120,
R121). -/
def clk (c : Config) (acc : Word) (ovf : Bool) (cnt : Nat) : Word :=
  BitVec.ofNat 32 (acc.toNat + (if ovf then c.overflowPeriodMs else 0) + cnt / c.ticksPerMs)

/-- The elapsed time of a state: the three values sampled together (40_clock.md R122). -/
def State.elapsed (s : State) : Word := clk s.cfg s.accMs s.tmr.ovf s.tmr.cnt

/-- NOW (40_clock.md R122). -/
def execNow (s : State) : Result := ifInitialized s (respond s .ok s.elapsed)

/-- The software accumulator grows by one fixed period, modulo `2^32` (40_clock.md R124). -/
def addPeriod (s : State) : State := { s with accMs := s.accMs + BitVec.ofNat 32 s.cfg.overflowPeriodMs }

/-- IRQ_TIMER (40_clock.md R124). -/
def execIrqTimer (s : State) : Result :=
  ifEnabled s.irqTimer .irqTimerNotEnabled (addPeriod (tmrStatusRead s))

end Sys2Proof.Machine
end

