-- ==== Sys2Proof/Machine/Ring.lean ====
section
/-! DEFINITION. The Receive Ring Buffer: PUSH, POP, LEN (41_ring.md). -/

namespace Sys2Proof.Machine

/-- `adv(i, lap)`: the index taken modulo capacity, the lap bit complemented at the wrap (41_ring.md R141). -/
def adv (capacity i : Nat) (lap : Bool) : Nat × Bool :=
  if i = capacity - 1 then (0, !lap) else (i + 1, lap)

/-- BufferOverrun: the new byte is dropped, counted and flagged (41_ring.md R142, R143). -/
def Ring.drop (r : Ring) : Ring := { r with overrunCnt := r.overrunCnt + 1, overrun := true }

/-- The accepting branch of PUSH: store to slot `head`, then advance (41_ring.md R142, R150). -/
def Ring.accept (capacity : Nat) (r : Ring) (b : Byte) : Ring :=
  { r with
    slots := Memory.write r.slots r.head b
    head := (adv capacity r.head r.headLap).1
    headLap := (adv capacity r.head r.headLap).2 }

/-- PUSH(b) (41_ring.md R142). -/
def Ring.push (capacity : Nat) (r : Ring) (b : Byte) : Ring :=
  if r.isFull then r.drop else r.accept capacity b

/-- The removal of POP: `tail` advances, the slot keeps its byte (41_ring.md R146). -/
def Ring.remove (capacity : Nat) (r : Ring) : Ring :=
  { r with
    tail := (adv capacity r.tail r.tailLap).1
    tailLap := (adv capacity r.tail r.tailLap).2 }

/-- POP (41_ring.md R146); the byte is zero-extended (R145). -/
def execPop (s : State) : Result :=
  ifInitialized s
    (if s.ring.isEmpty then respond s .empty 0
     else respond { s with ring := s.ring.remove s.cfg.capacity } .ok ((s.ring.slot s.ring.tail).setWidth 32))

/-- LEN (41_ring.md R148). -/
def execLen (s : State) : Result :=
  ifInitialized s (respond s .ok (BitVec.ofNat 32 (s.ring.occ s.cfg.capacity)))

end Sys2Proof.Machine
end

