-- ==== Sys2Proof/Machine/TxSeq.lean ====
section
/-! DEFINITION. The Transmit Sequencer: TRANSMIT and TXSTEP (42_txseq.md). -/

namespace Sys2Proof.Machine

/-- TransmitWhileBusy: rejected, counted and flagged, the session in flight untouched (rows T2, T3 of
42_txseq.md R160, R163). -/
def countBusy (s : State) : State :=
  { s with tx := { s.tx with busyCnt := s.tx.busyCnt + 1, busyErr := true } }

/-- Row T1 of 42_txseq.md R160: the pin rises, the session starts. -/
def startSession (s : State) (ptr length : Word) : State :=
  { s with
    tx := { s.tx with dir := .transmit, ptr := ptr, len := length, cursor := 0, ie := true, state := .filling } }

/-- TRANSMIT (42_txseq.md R161). -/
def execTransmit (ptr length : Word) (s : State) : Result :=
  ifInitialized s
    (if s.tx.state = .idle then respond (startSession s ptr length) .ok 0
     else respond (countBusy s) .busy 0)

/-- Rows T4 and T5 of 42_txseq.md R160: the next byte goes to the peripheral, the cursor advances, and the
write of the last byte enters Draining. -/
def txWriteByte (s : State) : State :=
  { serWrite s (memRead s s.txAddress) with
    tx := { s.tx with
      cursor := s.tx.cursor + 1
      state := if s.tx.cursor + 1 = s.tx.len then .draining else .filling } }

/-- Rows T6 and T9 of 42_txseq.md R160: the pin is released. -/
def txRelease (s : State) : State :=
  { s with tx := { s.tx with dir := .receive, ie := false, state := .idle } }

/-- Rows T7 and T8 of 42_txseq.md R160: the shift register is still busy. -/
def txWait (s : State) : State := { s with tx := { s.tx with state := .draining } }

/-- TXSTEP (42_txseq.md R165). The compare `tx_cursor < tx_len` is unsigned. -/
def txStep (s : State) : State :=
  if s.tx.cursor < s.tx.len then txWriteByte s
  else if s.ser.txComplete then txRelease s
  else txWait s

end Sys2Proof.Machine
end

