-- ==== Sys2Proof/Machine/Controller.lean ====
section
/-! DEFINITION. The Transport Controller: INIT, POLL, RDREG and IRQ_SERIAL (43_controller.md), with the
register file (10_state.md R31 to R46). -/

namespace Sys2Proof.Machine

/-- The assignments of INIT, in the order of 43_controller.md R186. -/
def initialised (s : State) (nodeId timeoutMs : Word) : State :=
  { s with
    ctl := { initialized := true, nodeId := nodeId, timeoutMs := timeoutMs, rxIe := true, ovfIe := true, tmrRun := true }
    ring := { s.ring with head := 0, headLap := false, tail := 0, tailLap := false }
    accMs := 0
    tx := { s.tx with state := .idle, ptr := 0, len := 0, cursor := 0, ie := false, dir := .receive } }

/-- INIT (43_controller.md R186); a second INIT answers `ALREADY_INIT` (R183). -/
def execInit (nodeId timeoutMs : Word) (s : State) : Result :=
  if s.ctl.initialized then .next (respond s .alreadyInit 0)
  else .next (respond (emit (initialised s nodeId timeoutMs) (.peInit nodeId)) .ok 0)

/-- POLL (43_controller.md R187). -/
def execPoll (s : State) : Result := ifInitialized s (respond (emit s .peUpdate) .ok 0)

/-- The register file by number (10_state.md R31 to R46); a number above `0x0E` is no register. -/
def readReg (s : State) (n : Nat) : Option Word :=
  match n with
  | 0x00 => some s.statusReg
  | 0x01 => some (BitVec.ofNat 32 s.ring.head)
  | 0x02 => some (BitVec.ofNat 32 s.ring.tail)
  | 0x03 => some (BitVec.ofNat 32 (s.ring.occ s.cfg.capacity))
  | 0x04 => some (BitVec.ofNat 32 s.cfg.capacity)
  | 0x05 => some s.ring.overrunCnt
  | 0x06 => some s.tx.ptr
  | 0x07 => some s.tx.len
  | 0x08 => some s.tx.cursor
  | 0x09 => some s.tx.busyCnt
  | 0x0A => some s.accMs
  | 0x0B => some s.ctl.nodeId
  | 0x0C => some s.ctl.timeoutMs
  | 0x0D => some s.periphReg
  | 0x0E => some (BitVec.ofNat 32 s.tmr.cnt)
  | _ => none

/-- RDREG, before and after INIT, with all 32 bits of the operand as the register number (43_controller.md
R188, 30_encoding.md R96). -/
def execRdreg (n : Word) (s : State) : Result :=
  match readReg s n.toNat with
  | some v => .next (respond s .ok v)
  | none => .next (respond s .badReg 0)

/-- The RX sub-behaviour of IRQ_SERIAL: SerRead, then PUSH (43_controller.md R191). -/
def serveRx (s : State) : State :=
  if s.rxCondition then { serRead s with ring := s.ring.push s.cfg.capacity (serReadByte s) } else s

/-- The TX sub-behaviour of IRQ_SERIAL: TXSTEP (43_controller.md R191). -/
def serveTx (s : State) : State := if s.txCondition then txStep s else s

/-- IRQ_SERIAL: both tests in every activation, RX first (43_controller.md R191). -/
def execIrqSerial (s : State) : Result :=
  ifEnabled s.irqSerial .irqSerialNotEnabled (serveTx (serveRx s))

end Sys2Proof.Machine
end

