-- ==== Sys2Proof/Machine/Environment.lean ====
section
/-! DEFINITION. The environment steps TMR_TICK, SER_RX, SER_LOAD, SER_DONE, MEM_WR (44_environment.md). -/

namespace Sys2Proof.Machine

/-- One tick of the hardware counter; a wrap over an unhandled overflow sets the ghost fault bit
(44_environment.md R201, R202). -/
def Timer.tick (modulus : Nat) (t : Timer) : Timer :=
  if t.cnt = modulus - 1 then { cnt := 0, ovf := true, ovfLost := t.ovfLost || t.ovf }
  else { t with cnt := t.cnt + 1 }

/-- TMR_TICK (44_environment.md R201). -/
def execTmrTick (s : State) : Result :=
  ifEnabled s.ctl.tmrRun .tmrTickNotEnabled { s with tmr := s.tmr.tick s.cfg.counterModulus }

/-- A byte arrives; one that arrives before the previous was read is lost and sets the ghost fault bit
(44_environment.md R203, R204). -/
def Serial.arrive (p : Serial) (b : Byte) : Serial :=
  if p.rxReady then { p with rxLost := true } else { p with rdr := b, rxReady := true }

/-- SER_RX (44_environment.md R203). -/
def execSerRx (b : Byte) (s : State) : Result :=
  ifEnabled s.ctl.initialized .serRxNotEnabled { s with ser := s.ser.arrive b }

/-- The holding register's byte moves into the shift register, and the pin's value is recorded
(44_environment.md R205). -/
def loadShift (s : State) : State :=
  { s with ser := { s.ser with tsr := s.ser.thr, tsrDir := s.tx.dir, thr := none } }

/-- SER_LOAD (44_environment.md R205). -/
def execSerLoad (s : State) : Result := ifEnabled s.ser.loadEnabled .serLoadNotEnabled (loadShift s)

/-- The last bit of the byte has left; `intact` is 1 iff the pin was at Transmit at both ends
(44_environment.md R206, 10_state.md R50). -/
def finishByte (s : State) (b : Byte) : State :=
  { s with
    wire := s.wire ++ [(b, s.ser.tsrDir.asserted && s.tx.dir.asserted)]
    ser := { s.ser with tsr := none } }

/-- SER_DONE (44_environment.md R206). -/
def execSerDone (s : State) : Result :=
  match s.ser.tsr with
  | some b => .next (finishByte s b)
  | none => .fault .serDoneNotEnabled

/-- MEM_WR (44_environment.md R208). -/
def execMemWr (addr : Word) (v : Byte) (s : State) : Result := .next (memWrite s addr v)

end Sys2Proof.Machine
end

