-- ==== Sys2Proof/Machine/Dispatch.lean ====
section
/-! DEFINITION. One arm per operation of 30_encoding.md R92. -/

namespace Sys2Proof.Machine

def exec (i : Instr) (s : State) : Host.Outcome State Fault Refusal :=
  match i with
  -- format C, commands
  | .init nodeId timeoutMs => Sys2Proof.Machine.execInit nodeId timeoutMs s
  | .pop => Sys2Proof.Machine.execPop s
  | .len => Sys2Proof.Machine.execLen s
  | .transmit ptr length => Sys2Proof.Machine.execTransmit ptr length s
  | .now => Sys2Proof.Machine.execNow s
  | .poll => Sys2Proof.Machine.execPoll s
  | .rdreg n => Sys2Proof.Machine.execRdreg n s
  -- format E, event operations
  | .irqSerial => Sys2Proof.Machine.execIrqSerial s
  | .irqTimer => Sys2Proof.Machine.execIrqTimer s
  -- format X, environment steps
  | .tmrTick => Sys2Proof.Machine.execTmrTick s
  | .serRx b => Sys2Proof.Machine.execSerRx b s
  | .serLoad => Sys2Proof.Machine.execSerLoad s
  | .serDone => Sys2Proof.Machine.execSerDone s
  | .memWr addr v => Sys2Proof.Machine.execMemWr addr v s

end Sys2Proof.Machine
end

