-- ==== Sys2Proof/Machine/Fetch.lean ====
section
/-! DEFINITION. Taking the next entry of the schedule and decoding it. The block fetches no instructions
(10_state.md R24); what runs next is the schedule's choice (60_exceptions.md R232; log entry 2). -/

namespace Sys2Proof.Machine

/-- What one step runs: the operation, if there is one, and the state it runs in. -/
abbrev Fetched := Host.Outcome (Option Instr × State) Fault Refusal

/-- A word of a written schedule. A command's operands reach the latches; a malformed word is refused
(30_encoding.md R97, 10_state.md R21). -/
def fetchWord (w : OpWord) (s : State) : Fetched :=
  match decode w with
  | .ok i => .next (some i, if i.format = .command then latchOperands s w else s)
  | .error (.reservedOpcode op) => .refused (.malformedWord op)

/-- A word on the command port. One that is no command answers `ILLEGAL` and changes no state but the
latches (30_encoding.md R97, R103; log entry 9). -/
def fetchPort (w : OpWord) (s : State) : Fetched :=
  match decodeCommand w with
  | some i => .next (some i, latchOperands s w)
  | none => .next (none, respond (latchOperands s w) .illegal 0)

/-- One entry of the schedule. -/
def fetchEntry (e : Entry) (s : State) : Fetched :=
  match e with
  | .word w => fetchWord w s
  | .port w => fetchPort w s

/-- The next entry of the schedule. An ill-formed configuration is refused (U8; log entry 5). With nothing
scheduled the block holds its state (60_exceptions.md R241; log entry 3). -/
def fetch (s : State) : Fetched :=
  if s.cfg.wf then
    match s.schedule with
    | [] => .next (none, s)
    | e :: rest => fetchEntry e { s with schedule := rest }
  else .refused .illFormedConfig

/-- The schedule with one more word in front. -/
def scheduleFirst (s : State) (e : Entry) : State := { s with schedule := e :: s.schedule }

end Sys2Proof.Machine
end

