-- ==== Sys2Proof/Machine/Step.lean ====
section
/-! DEFINITION. One step of the machine: the next entry of the schedule, one atomic operation
(20_memory.md R70). -/

namespace Sys2Proof.Machine

/-- One step: fetch, then `exec`. A word the fetch has answered itself (`ILLEGAL`), and an empty schedule,
run no operation. -/
def step (s : State) : Host.Outcome State Fault Refusal :=
  match fetch s with
  | .next (some i, t) => exec i t
  | .next (none, t) => .next t
  | .fault r => .fault r
  | .refused r => .refused r

/-- The word stands first in the schedule, where `step` takes its next operation (log entry 2). -/
def State.withFetchWord (s : State) (nbits w : Nat) : State :=
  scheduleFirst s (.word (tableWord nbits w))

end Sys2Proof.Machine
end

