-- ==== Sys2Proof/Machine/Assembler.lean ====
section
/-! DEFINITION. The assembler's mnemonics, register names and pseudo-operations (30_encoding.md R101, R102). -/

namespace Sys2Proof.Machine

/-- The names RDREG accepts for a register number (30_encoding.md R101). -/
def registerNames : List (String × Word) :=
  [("STATUS", 0x00), ("RB_HEAD", 0x01), ("RB_TAIL", 0x02), ("RB_LEN", 0x03), ("RB_CAP", 0x04),
   ("RX_OVERRUN_CNT", 0x05), ("TX_PTR", 0x06), ("TX_LEN", 0x07), ("TX_CURSOR", 0x08), ("TX_BUSY_CNT", 0x09),
   ("CLK_ACC_MS", 0x0A), ("NODE_ID", 0x0B), ("TIMEOUT_MS", 0x0C), ("PERIPH", 0x0D), ("TMR_CNT", 0x0E)]

/-- A byte operand as an assembler writes it: a numeral below `2^8`. -/
def byteOperand (w : Word) : Option Byte := if w.toNat < 2 ^ 8 then some (w.setWidth 8) else none

/-- One line of assembly, its mnemonic and its numerals, as an operation (30_encoding.md R101; `TICK` is
POLL, R102). -/
def assemble (mnemonic : String) (operands : List Word) : Option Instr :=
  match operands with
  | [] =>
    [("POP", Instr.pop), ("LEN", .len), ("NOW", .now), ("POLL", .poll), ("TICK", .poll),
     ("IRQ_SERIAL", .irqSerial), ("IRQ_TIMER", .irqTimer), ("TMR_TICK", .tmrTick), ("SER_LOAD", .serLoad),
     ("SER_DONE", .serDone)].lookup mnemonic
  | [a] =>
    if mnemonic = "RDREG" then some (.rdreg a)
    else if mnemonic = "SER_RX" then (byteOperand a).map .serRx
    else none
  | [a, b] =>
    if mnemonic = "INIT" then some (.init a b)
    else if mnemonic = "TRANSMIT" then some (.transmit a b)
    else if mnemonic = "MEM_WR" then (byteOperand b).map (.memWr a)
    else none
  | _ => none

/-- `RX b` is SER_RX b then IRQ_SERIAL (30_encoding.md R102), valid only where `rx_ie = 1` and `ser.rx_ready = 0` before
it. The rule does not say what it stands for elsewhere; that it has the same expansion there, unchecked, is the model's
choice (DESIGN CHOICE, unsafe, log entry 15). -/
def pseudoRx (b : Byte) : List Instr := [.serRx b, .irqSerial]

/-- `TMR_TICK * n` (30_encoding.md R102). -/
def pseudoTicks (n : Nat) : List Instr := List.replicate n .tmrTick

/-- `OVERFLOW` is `TMR_TICK * (M - tmr.cnt)` then IRQ_TIMER (30_encoding.md R102), valid only where `tmr.ovf = 0` and
`ovf_ie = 1` before it. The rule does not say what it stands for elsewhere; that it has the same expansion there,
unchecked, is the model's choice (DESIGN CHOICE, unsafe, log entry 15). -/
def pseudoOverflow (s : State) : List Instr := pseudoTicks (s.cfg.counterModulus - s.tmr.cnt) ++ [.irqTimer]

/-- `ELAPSED a, b` is `(b - a) mod 2^32`, the wrap-safe subtraction of 40_clock.md R128. -/
def elapsedBetween (a b : Word) : Word := b - a

end Sys2Proof.Machine
end

