-- ==== Sys2Proof/Safety.lean ====
section
/-! DEFINITION. What claims are stated in: the safety predicate, quiescence, the invariants of
70_reset_and_hazards.md section 3, finite runs, what a run lets an observer see, and fair executions
(60_exceptions.md R233). -/

namespace Sys2Proof.Machine

/-- `no_fault = (tmr.ovf_lost == 0 and ser.rx_lost == 0)` (44_environment.md R209). -/
def State.noFault (s : State) : Bool := !s.tmr.ovfLost && !s.ser.rxLost

/-- A state is quiescent when both lines are 0 and both transmit registers are empty
(70_reset_and_hazards.md R284). -/
def State.quiescent (s : State) : Bool := !s.irqSerial && !s.irqTimer && s.ser.thr.isNone && s.ser.tsr.isNone

/-- The unread bytes, oldest first (10_state.md R23). -/
def State.unread (s : State) : List Byte :=
  (List.range (s.ring.occ s.cfg.capacity)).map fun k => s.ring.slot ((s.ring.tail + k) % s.cfg.capacity)

/-- What a state looks like before INIT: as after reset but for the schedule, the command port's latches,
application memory and the unspecified `ser.rdr` (43_controller.md R185, 70_reset_and_hazards.md R261). -/
def State.asAfterReset (s : State) : Prop :=
  s = { State.resetWith s.cfg with
        schedule := s.schedule, port := s.port, mem := s.mem,
        ser := { (State.resetWith s.cfg).ser with rdr := s.ser.rdr } }

/-- The ring is in range (70_reset_and_hazards.md R270), its lap bits say which index is ahead (R271), and its
storage is in canonical form. -/
structure RingInv (s : State) : Prop where
  headRange : s.ring.head < s.cfg.capacity
  tailRange : s.ring.tail < s.cfg.capacity
  aheadSameLap : s.ring.tail < s.ring.head → s.ring.headLap = s.ring.tailLap
  behindOtherLap : s.ring.head < s.ring.tail → s.ring.headLap ≠ s.ring.tailLap
  slots : Memory.wf s.cfg.capacity s.ring.slots
  overrunFlag : s.ring.overrun = false → s.ring.overrunCnt = 0

/-- The sequencer and its peripheral (70_reset_and_hazards.md R272, R273, R274). -/
structure TxInv (s : State) : Prop where
  idleIffDisabled : s.tx.state = .idle ↔ s.tx.ie = false
  idleIffReceive : s.tx.state = .idle ↔ s.tx.dir = .receive
  cursorLe : s.tx.cursor ≤ s.tx.len
  filling : s.tx.state = .filling → s.tx.cursor < s.tx.len ∨ s.tx.len = 0
  draining : s.tx.state = .draining → s.tx.cursor = s.tx.len
  idlePeripheral : s.tx.state = .idle → s.ser.thr = none ∧ s.ser.tsr = none
  freshSession : s.tx.state = .filling → s.tx.cursor = 0 → s.ser.thr = none ∧ s.ser.tsr = none
  underTransmit : s.ser.thr ≠ none ∨ s.ser.tsr ≠ none → s.tx.dir = .transmit
  shiftedUnderTransmit : s.ser.tsr ≠ none → s.ser.tsrDir = .transmit
  wireIntact : ∀ p ∈ s.wire, p.2 = true
  busyFlag : s.tx.busyErr = false → s.tx.busyCnt = 0

/-- The controller: the enables follow `initialized` (10_state.md R27), the block is as after reset before
INIT, the response is one of 30_encoding.md R99, and the protocol engine has seen its one initialiser call
first (43_controller.md R180, R183). -/
structure ControlInv (s : State) : Prop where
  rxEnable : s.ctl.rxIe = s.ctl.initialized
  ovfEnable : s.ctl.ovfIe = s.ctl.initialized
  running : s.ctl.tmrRun = s.ctl.initialized
  beforeInit : s.ctl.initialized = false → s.asAfterReset
  response : ∃ st : Status, s.port.rspStatus = st.code ∧ (st ≠ .ok → s.port.rspData = 0)
  engineLog : s.ctl.initialized = true →
    ∃ updates, s.peLog = .peInit s.ctl.nodeId :: updates ∧ ∀ e ∈ updates, e = .peUpdate

/-- The invariant of the model: every reachable state meets it. -/
structure State.Inv (s : State) : Prop where
  config : s.cfg.wf
  ring : RingInv s
  tx : TxInv s
  control : ControlInv s
  counter : s.tmr.cnt < s.cfg.counterModulus
  memory : Memory.wf (2 ^ 32) s.mem

/-- A finite run: the operations in order, stopping at the first fault or refusal. -/
def runOps : List Instr → State → Result
  | [], s => .next s
  | i :: rest, s =>
    match exec i s with
    | .next t => runOps rest t
    | .fault r => .fault r
    | .refused r => .refused r

/-- What an observer `f` of single steps (operation, state before, state after) collects along a run. -/
def observe {α : Type} (f : Instr → State → State → List α) : List Instr → State → List α
  | [], _ => []
  | i :: rest, s =>
    match exec i s with
    | .next t => f i s t ++ observe f rest t
    | .fault _ => []
    | .refused _ => []

/-- The state is reached from reset under some well-formed configuration by some operations. -/
def State.reachable (s : State) : Prop :=
  ∃ (c : Config) (ops : List Instr), c.wf ∧ runOps ops (State.resetWith c) = .next s

/-- The byte PUSH accepts in a step (41_ring.md R142). -/
def acceptedByte (i : Instr) (s _t : State) : List Byte :=
  if i = .irqSerial ∧ s.rxCondition = true ∧ s.ring.isFull = false then [s.ser.rdr] else []

/-- The byte PUSH drops in a step (41_ring.md R143). -/
def droppedByte (i : Instr) (s _t : State) : List Byte :=
  if i = .irqSerial ∧ s.rxCondition = true ∧ s.ring.isFull = true then [s.ser.rdr] else []

/-- The byte a successful POP returns, as its response shows it (41_ring.md R145). -/
def returnedByte (i : Instr) (_s t : State) : List Byte :=
  if i = .pop ∧ t.port.rspStatus = Status.code .ok then [t.port.rspData.setWidth 8] else []

/-- One entry for each wrapping TMR_TICK (40_clock.md R126). -/
def overflowEvent (i : Instr) (s _t : State) : List Unit :=
  if i = .tmrTick ∧ s.tmr.cnt = s.cfg.counterModulus - 1 then [()] else []

/-- The bytes of a transmit buffer, lowest address first (20_memory.md R63, R65). -/
def bufferBytes (s : State) (ptr length : Word) : List Byte :=
  (List.range length.toNat).map fun k => memRead s (ptr + BitVec.ofNat 32 k)

/-- The operation writes a byte of a borrowed buffer, against the caller's duty (42_txseq.md R164,
70_reset_and_hazards.md R275). -/
def writesBuffer (i : Instr) (ptr length : Word) : Prop :=
  ∃ (v : Byte) (k : Nat), k < length.toNat ∧ i = .memWr (ptr + BitVec.ofNat 32 k) v

/-- An infinite execution: each operation occurs in a state where it is enabled and leads to the next
state. -/
def Execution (ops : Nat → Instr) (st : Nat → State) : Prop :=
  ∀ n, exec (ops n) (st n) = .next (st (n + 1))

/-- Weak fairness for one step kind: it does not stay enabled for ever without occurring (60_exceptions.md
R233). -/
def weaklyFair (i : Instr) (ops : Nat → Instr) (st : Nat → State) : Prop :=
  ∀ n, (∀ m, n ≤ m → enabled i (st m) = true) → ∃ m, n ≤ m ∧ ops m = i

/-- An execution is fair when IRQ_SERIAL, IRQ_TIMER, SER_LOAD and SER_DONE are treated weakly fairly
(60_exceptions.md R233). -/
def Fair (ops : Nat → Instr) (st : Nat → State) : Prop :=
  weaklyFair .irqSerial ops st ∧ weaklyFair .irqTimer ops st ∧ weaklyFair .serLoad ops st ∧ weaklyFair .serDone ops st

end Sys2Proof.Machine
end

