-- ==== Sys2Proof/Certificates/Slice0/Obligations.lean ====
section
/-! DEFINITION. The statements for the provers. Each docstring names the rule of spec/ it formalises; a clause
that rests on a choice of the model names the log entry. -/

open Sys2Proof Sys2Proof.Machine

/-! ### Encoding and decoding (30_encoding.md) -/

/-- R90, R92, R96: decoding the encoding of any operation gives it back, with every operand value. -/
def Obligations.DecodeEncodeRoundTrip : Prop :=
  ∀ i : Instr, decode (encode i) = .ok i

/-- R96, R98: a word that decodes is, on the bits its operation reads, the encoding of that operation. -/
def Obligations.DecodedWordIsEncodingOnUsedBits : Prop :=
  ∀ (w : OpWord) (i : Instr), decode w = .ok i → encode i = w &&& i.usedBits

/-- R92, R97: exactly the fourteen opcodes of the map decode, each to an operation of that opcode; every other
word is refused under the name of its reserved opcode. -/
def Obligations.OpcodeMapIsComplete : Prop :=
  ∀ w : OpWord,
    (∀ i, decode w = .ok i → i.opcode = opcodeOf w) ∧
    ((∃ i, decode w = .ok i) ↔
      opcodeOf w ∈ [0x01, 0x02, 0x03, 0x04, 0x05, 0x06, 0x07, 0x80, 0x81, 0x90, 0x91, 0x92, 0x93, (0x94 : Byte)]) ∧
    ∀ e, decode w = .error e → e = .reservedOpcode (opcodeOf w)

/-- R98 (with R94 to R96 for the other formats): two words with the same opcode that differ only in ignored fields
are the same operation, and an encoding sets the ignored fields to 0. -/
def Obligations.IgnoredFieldsDoNotMatter : Prop :=
  (∀ w w' : OpWord, opcodeOf w = opcodeOf w' →
    (opcodeOf w ∈ [0x02, 0x03, 0x05, (0x06 : Byte)] → decode w = decode w') ∧
    (opcodeOf w = 0x07 → arg0Of w = arg0Of w' → decode w = decode w') ∧
    (opcodeOf w ∈ [0x80, 0x81, 0x90, 0x92, (0x93 : Byte)] → decode w = decode w') ∧
    (opcodeOf w = 0x91 → (arg1Of w).setWidth 8 = (arg1Of w').setWidth 8 → decode w = decode w') ∧
    (opcodeOf w = 0x94 → arg0Of w = arg0Of w' → (arg1Of w).setWidth 8 = (arg1Of w').setWidth 8 →
      decode w = decode w')) ∧
  (∀ i ∈ [Instr.pop, .len, .now, .poll, .irqSerial, .irqTimer, .tmrTick, .serLoad, .serDone],
    arg0Of (encode i) = 0 ∧ arg1Of (encode i) = 0) ∧
  (∀ n, arg1Of (encode (.rdreg n)) = 0) ∧
  (∀ b, arg0Of (encode (.serRx b)) = 0)

/-- R101 and 95_test_vectors.md V2, V3: words written out bit by bit decode to the operations they stand for. -/
def Obligations.WrittenWordsDecode : Prop :=
  decode 0x01_00000011_0000000A#72 = .ok (.init 0x11 0x0A) ∧
  decode 0x02_DEADBEEF_12345678#72 = .ok .pop ∧
  decode 0x04_20000100_00000003#72 = .ok (.transmit 0x20000100 3) ∧
  decode 0x07_00000003_FFFFFFFF#72 = .ok (.rdreg 0x03) ∧
  decode 0x80_00000000_00000000#72 = .ok .irqSerial ∧
  decode 0x91_00000000_0000AB41#72 = .ok (.serRx 0x41) ∧
  decode 0x94_FFFFFFFF_00000100#72 = .ok (.memWr 0xFFFFFFFF 0x00) ∧
  decode 0x08_00000000_00000000#72 = .error (.reservedOpcode 0x08)

/-- R97: on the command port a word whose opcode is not 0x01..0x07 answers ILLEGAL, before and after INIT, and
nothing but the port's latches changes; in a written schedule a reserved opcode is refused. That the operand
latches take an illegal word's operands is the model's reading of R21 (log entry 9). -/
def Obligations.IllegalWordsAnswerIllegal : Prop :=
  ∀ (s : State) (w : OpWord) (rest : List Entry), s.cfg.wf →
    (s.schedule = .port w :: rest →
      opcodeOf w ∉ [0x01, 0x02, 0x03, 0x04, 0x05, 0x06, (0x07 : Byte)] →
      step s = .next { s with
        schedule := rest
        port := { arg0 := arg0Of w, arg1 := arg1Of w, rspStatus := 0x04, rspData := 0 } }) ∧
    (s.schedule = .word w :: rest →
      opcodeOf w ∉ [0x01, 0x02, 0x03, 0x04, 0x05, 0x06, 0x07, 0x80, 0x81, 0x90, 0x91, 0x92, 0x93, (0x94 : Byte)] →
      step s = .refused (.malformedWord (opcodeOf w)))

/-- R103: the decode order of the command port, its five lines. -/
def Obligations.CommandDecodeOrder : Prop :=
  ∀ (s : State) (w : OpWord) (rest : List Entry), s.cfg.wf → s.schedule = .port w :: rest →
    ∀ u : State, u = latchOperands { s with schedule := rest } w →
    (opcodeOf w ∉ [0x01, 0x02, 0x03, 0x04, 0x05, 0x06, (0x07 : Byte)] →
      step s = .next (respond u .illegal 0)) ∧
    (opcodeOf w = 0x01 → s.ctl.initialized = true → step s = .next (respond u .alreadyInit 0)) ∧
    (opcodeOf w = 0x07 → step s = exec (.rdreg (arg0Of w)) u) ∧
    (opcodeOf w ∈ [0x02, 0x03, 0x04, 0x05, (0x06 : Byte)] → s.ctl.initialized = false →
      step s = .next (respond u .notInit 0)) ∧
    (opcodeOf w ∈ [0x01, 0x02, 0x03, 0x04, 0x05, 0x06, (0x07 : Byte)] →
      ∃ i : Instr, decode w = .ok i ∧ i.format = .command ∧ step s = exec i u)

/-- A step runs the decoded operation: a word of the schedule in the state that is left, a command with its
operands latched (R21). `withFetchWord` makes the word the very next one. The schedule is the model's own field
(log entry 2). -/
def Obligations.StepRunsTheDecodedOperation : Prop :=
  (∀ (s : State) (w : OpWord) (rest : List Entry) (i : Instr), s.cfg.wf → s.schedule = .word w :: rest →
    decode w = .ok i →
    step s = exec i (if i.format = .command then latchOperands { s with schedule := rest } w
      else { s with schedule := rest })) ∧
  (∀ (s : State) (w : OpWord) (rest : List Entry) (i : Instr), s.cfg.wf → s.schedule = .port w :: rest →
    decode w = .ok i → i.format = .command →
    step s = exec i (latchOperands { s with schedule := rest } w)) ∧
  (∀ (s : State) (nbits w : Nat) (i : Instr), s.cfg.wf → decodeTableWord nbits w = some i →
    step (s.withFetchWord nbits w) =
      exec i (if i.format = .command then latchOperands s (tableWord nbits w) else s))

/-- U8: an ill-formed configuration is refused. R241: with nothing scheduled the block holds its state. Both are
the model's choices (log entries 3 and 5). -/
def Obligations.StepWithoutAnOperation : Prop :=
  ∀ s : State,
    (¬ s.cfg.wf → step s = .refused .illFormedConfig) ∧
    (s.cfg.wf → s.schedule = [] → step s = .next s)

/-- R99, with the codes and the "returned by" column: every command answers one of these statuses, with
`data = 0` unless it is OK; a word outside 0x01..0x07 answers ILLEGAL. -/
def Obligations.CommandsAnswerTheirStatuses : Prop :=
  (∀ (i : Instr) (s : State), i.format = .command → ∃ t, exec i s = .next t ∧
    (t.port.rspStatus ≠ 0x00 → t.port.rspData = 0) ∧
    (t.port.rspStatus = 0x00 ∨
     (t.port.rspStatus = 0x01 ∧ i = .pop) ∨
     (t.port.rspStatus = 0x02 ∧ ∃ p l, i = .transmit p l) ∨
     (t.port.rspStatus = 0x03 ∧ (i = .pop ∨ i = .len ∨ i = .now ∨ i = .poll ∨ ∃ p l, i = .transmit p l)) ∨
     (t.port.rspStatus = 0x05 ∧ ∃ n : Word, i = .rdreg n ∧ 0x0E < n.toNat) ∨
     (t.port.rspStatus = 0x06 ∧ ∃ n d, i = .init n d))) ∧
  (∀ (s t : State) (w : OpWord) (rest : List Entry), s.cfg.wf → s.schedule = .port w :: rest →
    opcodeOf w ∉ [0x01, 0x02, 0x03, 0x04, 0x05, 0x06, (0x07 : Byte)] → step s = .next t →
    t.port.rspStatus = 0x04 ∧ t.port.rspData = 0)

/-- R91: every command answers with one response, `r[39:32] = status`, `r[31:0] = data`; `data` is 0 but for the
commands whose rules give it a value; event operations and environment steps produce no response. -/
def Obligations.OnlyCommandsRespond : Prop :=
  (∀ s : State, s.response.extractLsb' 32 8 = s.port.rspStatus ∧ s.response.extractLsb' 0 32 = s.port.rspData) ∧
  (∀ (i : Instr) (s : State), i.format = .command → ∃ t, exec i s = .next t ∧
    (t.port.rspData ≠ 0 → t.port.rspStatus = 0x00 ∧ (i = .pop ∨ i = .len ∨ i = .now ∨ ∃ n, i = .rdreg n))) ∧
  (∀ (i : Instr) (s t : State), i.format ≠ .command → exec i s = .next t → t.port = s.port)

/-! ### Elapsed Clock (40_clock.md) -/

/-- R120 through R122: NOW answers the sum of the accumulator, the pending overflow's period and the counter's
whole milliseconds, reduced modulo `2^32`; before INIT it answers NOT_INIT; nothing else changes. -/
def Obligations.NowReportsElapsedTime : Prop :=
  ∀ s : State,
    (s.ctl.initialized = false →
      exec .now s = .next { s with port := { s.port with rspStatus := 0x03, rspData := 0 } }) ∧
    (s.ctl.initialized = true → ∃ d : Word,
      exec .now s = .next { s with port := { s.port with rspStatus := 0x00, rspData := d } } ∧
      d.toNat = (s.accMs.toNat + (if s.tmr.ovf = true then s.cfg.overflowPeriodMs else 0)
        + s.tmr.cnt / s.cfg.ticksPerMs) % 2 ^ 32 ∧
      (s.cfg.wf → s.tmr.cnt = s.cfg.counterModulus - 1 → s.tmr.ovf = false →
        d = s.accMs + BitVec.ofNat 32 s.cfg.overflowPeriodMs - 1))

/-- R124: IRQ_TIMER is enabled iff its line is 1; it clears the flag, adds exactly one period modulo `2^32`,
changes nothing else, and is not enabled again by the same event; never before INIT. That a disabled one stops with
the named fault is the model's reading (log entry 4). -/
def Obligations.TimerHandlerAddsOnePeriod : Prop :=
  ∀ s : State,
    (s.ctl.ovfIe = true → s.tmr.ovf = true → ∃ (a : Word) (t : State),
      exec .irqTimer s = .next t ∧
      t = { s with accMs := a, tmr := { s.tmr with ovf := false } } ∧
      a.toNat = (s.accMs.toNat + s.cfg.overflowPeriodMs) % 2 ^ 32 ∧
      exec .irqTimer t = .fault .irqTimerNotEnabled) ∧
    (s.ctl.ovfIe = false ∨ s.tmr.ovf = false → exec .irqTimer s = .fault .irqTimerNotEnabled) ∧
    (s.Inv → s.ctl.initialized = false → exec .irqTimer s = .fault .irqTimerNotEnabled)

/-- R123: the elapsed time does not depend on whether the handler of a pending overflow has run, and the tick
that wraps the counter moves it on by one millisecond. -/
def Obligations.PendingOverflowIsCounted : Prop :=
  (∀ s t : State, exec .irqTimer s = .next t → t.elapsed = s.elapsed) ∧
  (∀ s t : State, s.cfg.wf → s.tmr.cnt = s.cfg.counterModulus - 1 → s.tmr.ovf = false →
    exec .tmrTick s = .next t → t.tmr.ovf = true ∧ t.accMs = s.accMs ∧ t.elapsed = s.elapsed + 1)

/-- R126: along every run from reset with no missed overflow, NOW's value is `K*P + floor(V/T)` modulo `2^32`,
and the unreduced value never decreases and grows by at most 1 per step. -/
def Obligations.ElapsedTimeIsExactAndMonotone : Prop :=
  ∀ (c : Config) (ops : List Instr) (i : Instr) (t u : State) (before after : Nat), c.wf →
    runOps ops (State.resetWith c) = .next t → exec i t = .next u → u.tmr.ovfLost = false →
    before = (observe overflowEvent ops (State.resetWith c)).length * c.overflowPeriodMs
      + t.tmr.cnt / c.ticksPerMs →
    after = (observe overflowEvent (ops ++ [i]) (State.resetWith c)).length * c.overflowPeriodMs
      + u.tmr.cnt / c.ticksPerMs →
    t.elapsed = BitVec.ofNat 32 before ∧ u.elapsed = BitVec.ofNat 32 after ∧
      before ≤ after ∧ after ≤ before + 1

/-- R102: OVERFLOW, that is `TMR_TICK * (M - tmr.cnt)` then IRQ_TIMER, runs one whole overflow event with its
handler and changes the accumulator and the counter alone. -/
def Obligations.OverflowSequenceRuns : Prop :=
  ∀ s : State, s.ctl.tmrRun = true → s.ctl.ovfIe = true → s.tmr.ovf = false → s.tmr.cnt < s.cfg.counterModulus →
    runOps (pseudoOverflow s) s = .next { s with
      accMs := s.accMs + BitVec.ofNat 32 s.cfg.overflowPeriodMs, tmr := { s.tmr with cnt := 0 } }

/-! ### Receive Ring Buffer (41_ring.md) -/

/-- R140 with the occupancy of R23: its range, the source's congruence, and empty and full in both forms. -/
def Obligations.OccupancyMatchesIndices : Prop :=
  ∀ (capacity : Nat) (r : Ring), r.head < capacity → r.tail < capacity →
    r.occ capacity ≤ capacity ∧
    ((r.occ capacity : Int) % capacity = ((r.head : Int) - r.tail) % capacity) ∧
    (r.isEmpty = true ↔ r.occ capacity = 0) ∧
    (r.isEmpty = true ↔ r.head = r.tail ∧ r.headLap = r.tailLap) ∧
    (r.isFull = true ↔ r.occ capacity = capacity) ∧
    (r.isFull = true ↔ r.head = r.tail ∧ r.headLap ≠ r.tailLap) ∧
    (capacity = 1 → r.head = 0 ∧ r.tail = 0)

/-- R141: advancing takes the index modulo capacity; `CAPACITY` advances return it and complement the lap bit,
`2 * CAPACITY` return both. -/
def Obligations.AdvancingCyclesIndexAndLap : Prop :=
  ∀ (capacity i : Nat) (lap : Bool), i < capacity →
    (adv capacity i lap = if i = capacity - 1 then (0, !lap) else (i + 1, lap)) ∧
    (adv capacity i lap).1 = (i + 1) % capacity ∧
    (fun p : Nat × Bool => adv capacity p.1 p.2)^[capacity] (i, lap) = (i, !lap) ∧
    (fun p : Nat × Bool => adv capacity p.1 p.2)^[2 * capacity] (i, lap) = (i, lap)

/-- R146, R145: POP's three answers; a successful POP returns the slot at `tail` zero-extended and advances
`tail`, and nothing else changes. -/
def Obligations.PopTakesTheOldestByte : Prop :=
  ∀ s : State,
    (s.ctl.initialized = false →
      exec .pop s = .next { s with port := { s.port with rspStatus := 0x03, rspData := 0 } }) ∧
    (s.ctl.initialized = true → s.ring.head = s.ring.tail ∧ s.ring.headLap = s.ring.tailLap →
      exec .pop s = .next { s with port := { s.port with rspStatus := 0x01, rspData := 0 } }) ∧
    (s.ctl.initialized = true → ¬ (s.ring.head = s.ring.tail ∧ s.ring.headLap = s.ring.tailLap) →
      ∃ d : Word, d.toNat = (s.ring.slot s.ring.tail).toNat ∧
        exec .pop s = .next { s with
          port := { s.port with rspStatus := 0x00, rspData := d }
          ring := { s.ring with
            tail := if s.ring.tail = s.cfg.capacity - 1 then 0 else s.ring.tail + 1
            tailLap := if s.ring.tail = s.cfg.capacity - 1 then !s.ring.tailLap else s.ring.tailLap } })

/-- R148: LEN answers the occupancy, the same value as register RB_LEN, `CAPACITY` on a full ring; it writes no
state but the response. -/
def Obligations.LenReportsOccupancy : Prop :=
  ∀ s : State,
    (s.ctl.initialized = false →
      exec .len s = .next { s with port := { s.port with rspStatus := 0x03, rspData := 0 } }) ∧
    (s.ctl.initialized = true → s.Inv → ∃ d : Word, d.toNat = s.ring.occ s.cfg.capacity ∧
      exec .len s = .next { s with port := { s.port with rspStatus := 0x00, rspData := d } } ∧
      exec (.rdreg 0x03) s = .next { s with port := { s.port with rspStatus := 0x00, rspData := d } } ∧
      (s.ring.head = s.ring.tail → s.ring.headLap ≠ s.ring.tailLap → d.toNat = s.cfg.capacity))

/-- R142, R143 through R191: a full ring drops the new byte, counts it and flags it; otherwise the byte is stored at
`head` and `head` advances, and every other slot is unchanged. With the TX condition off nothing else changes; what
`ser.rdr` holds after it was read is left open (93_implementation_defined.md U11). -/
def Obligations.ReceivedByteIsPushedOrCounted : Prop :=
  ∀ s : State, s.ctl.rxIe = true → s.ser.rxReady = true → ∃ t : State, exec .irqSerial s = .next t ∧
    t.ser.rxReady = false ∧
    (s.ring.head = s.ring.tail ∧ s.ring.headLap ≠ s.ring.tailLap →
      t.ring = { s.ring with overrunCnt := s.ring.overrunCnt + 1, overrun := true }) ∧
    (¬ (s.ring.head = s.ring.tail ∧ s.ring.headLap ≠ s.ring.tailLap) →
      t.ring = { s.ring with
        slots := t.ring.slots
        head := if s.ring.head = s.cfg.capacity - 1 then 0 else s.ring.head + 1
        headLap := if s.ring.head = s.cfg.capacity - 1 then !s.ring.headLap else s.ring.headLap } ∧
      (∀ k, t.ring.slot k = if k = s.ring.head then s.ser.rdr else s.ring.slot k)) ∧
    (s.tx.ie = false ∨ s.ser.thr ≠ none → t = { s with ring := t.ring, ser := { s.ser with rxReady := false, rdr := t.ser.rdr } })

/-- R147: first in, first out along every run: the unread bytes and then the accepted ones are the returned bytes
and then the unread ones; from reset, the returned bytes are a prefix of the accepted ones. -/
def Obligations.RingIsFirstInFirstOut : Prop :=
  (∀ (ops : List Instr) (s t : State), s.Inv → runOps ops s = .next t →
    s.unread ++ observe acceptedByte ops s = observe returnedByte ops s ++ t.unread) ∧
  (∀ (c : Config) (ops : List Instr) (t : State), c.wf → runOps ops (State.resetWith c) = .next t →
    observe returnedByte ops (State.resetWith c) <+: observe acceptedByte ops (State.resetWith c))

/-- R271: the indices, the lap bits, the occupancy and the overrun counter as functions of the numbers of bytes
accepted, returned and dropped since reset. -/
def Obligations.RingCountsAlongEveryRun : Prop :=
  ∀ (c : Config) (ops : List Instr) (t : State) (accepted returned dropped : Nat), c.wf →
    runOps ops (State.resetWith c) = .next t →
    accepted = (observe acceptedByte ops (State.resetWith c)).length →
    returned = (observe returnedByte ops (State.resetWith c)).length →
    dropped = (observe droppedByte ops (State.resetWith c)).length →
    t.ring.occ c.capacity ≤ c.capacity ∧
    returned + t.ring.occ c.capacity = accepted ∧
    t.ring.head = accepted % c.capacity ∧
    t.ring.headLap = decide (accepted / c.capacity % 2 = 1) ∧
    t.ring.tail = returned % c.capacity ∧
    t.ring.tailLap = decide (returned / c.capacity % 2 = 1) ∧
    t.ring.overrunCnt.toNat = dropped % 2 ^ 32 ∧
    (t.ring.overrun = true ↔ 0 < dropped)

/-! ### Transmit Sequencer (42_txseq.md) -/

/-- R161, R163: TRANSMIT's three answers. An accepted one raises the pin and starts the session without touching
the peripheral, and IRQ_SERIAL is enabled at once; a rejected one changes only the counter and the flag. -/
def Obligations.TransmitStartsOrIsRejected : Prop :=
  ∀ (p l : Word) (s : State),
    (s.ctl.initialized = false →
      exec (.transmit p l) s = .next { s with port := { s.port with rspStatus := 0x03, rspData := 0 } }) ∧
    (s.ctl.initialized = true → s.tx.state ≠ .idle →
      exec (.transmit p l) s = .next { s with
        port := { s.port with rspStatus := 0x02, rspData := 0 }
        tx := { s.tx with busyCnt := s.tx.busyCnt + 1, busyErr := true } }) ∧
    (s.ctl.initialized = true → s.tx.state = .idle → ∃ t : State,
      exec (.transmit p l) s = .next t ∧
      t = { s with
        port := { s.port with rspStatus := 0x00, rspData := 0 }
        tx := { s.tx with dir := .transmit, ptr := p, len := l, cursor := 0, ie := true, state := .filling } } ∧
      (s.Inv → t.irqSerial = true))

/-- R160: the transition table, rows T1 to T10. TXSTEP is observed through IRQ_SERIAL: what it does to the sequencer
and to the holding register whether or not a received byte waits, and that nothing else changes where none waits. -/
def Obligations.SequencerTransitionTable : Prop :=
  ∀ (s : State) (p l : Word) (b : Byte),
    -- T1
    (s.ctl.initialized = true → s.tx.state = .idle →
      exec (.transmit p l) s = .next { s with
        port := { s.port with rspStatus := 0x00, rspData := 0 }
        tx := { s.tx with dir := .transmit, ptr := p, len := l, cursor := 0, ie := true, state := .filling } }) ∧
    -- T2, T3
    (s.ctl.initialized = true → s.tx.state = .filling ∨ s.tx.state = .draining →
      exec (.transmit p l) s = .next { s with
        port := { s.port with rspStatus := 0x02, rspData := 0 }
        tx := { s.tx with busyCnt := s.tx.busyCnt + 1, busyErr := true } }) ∧
    (s.tx.ie = true → s.ser.thr = none → ∃ t : State, exec .irqSerial s = .next t ∧
      (s.ser.rxReady = false → t = { s with tx := t.tx, ser := { s.ser with thr := t.ser.thr } }) ∧
      -- T4
      (s.tx.state = .filling → s.tx.cursor.toNat + 1 < s.tx.len.toNat →
        memRead s (s.tx.ptr + s.tx.cursor) = b →
        t.ser.thr = some b ∧ t.tx = { s.tx with cursor := s.tx.cursor + 1 }) ∧
      -- T5
      (s.tx.state = .filling → s.tx.cursor.toNat + 1 = s.tx.len.toNat →
        memRead s (s.tx.ptr + s.tx.cursor) = b →
        t.ser.thr = some b ∧ t.tx = { s.tx with cursor := s.tx.cursor + 1, state := .draining }) ∧
      -- T6, T9
      (s.tx.state = .filling ∨ s.tx.state = .draining → s.tx.len.toNat ≤ s.tx.cursor.toNat → s.ser.tsr = none →
        t.ser.thr = none ∧ t.tx = { s.tx with dir := .receive, ie := false, state := .idle }) ∧
      -- T7
      (s.tx.state = .filling → s.tx.len.toNat ≤ s.tx.cursor.toNat → s.ser.tsr ≠ none →
        t.ser.thr = none ∧ t.tx = { s.tx with state := .draining }) ∧
      -- T8
      (s.tx.state = .draining → s.tx.len.toNat ≤ s.tx.cursor.toNat → s.ser.tsr ≠ none →
        t.ser.thr = none ∧ t.tx = s.tx)) ∧
    -- T10
    (s.Inv → s.tx.state = .idle → s.txCondition = false)

/-- R162: every SerWrite happens in a state with `dir = 1`, and the step that raises the pin is a TRANSMIT from
Idle that writes no byte. -/
def Obligations.PinRisesBeforeTheFirstByte : Prop :=
  ∀ (i : Instr) (s t : State), s.Inv → exec i s = .next t →
    (s.ser.thr = none → t.ser.thr ≠ none → i = .irqSerial ∧ s.tx.dir = .transmit ∧ t.tx.dir = .transmit) ∧
    (s.tx.dir = .receive → t.tx.dir = .transmit →
      (∃ p l, i = .transmit p l) ∧ s.tx.state = .idle ∧ t.ser = s.ser)

/-- R166: the pin returns to Receive only in IRQ_SERIAL with the holding and the shift register both empty and
every byte of the session written, and `tx_ie` is cleared in the same step. -/
def Obligations.PinFallsOnlyWhenDrained : Prop :=
  ∀ (i : Instr) (s t : State), s.Inv → exec i s = .next t →
    s.tx.dir = .transmit → t.tx.dir = .receive →
    i = .irqSerial ∧ s.ser.thr = none ∧ s.ser.tsr = none ∧ s.tx.cursor = s.tx.len ∧
      t.tx.ie = false ∧ t.tx.state = .idle

/-- R169: a zero-length transmission is accepted, the pin is high between two steps, and the first IRQ_SERIAL
releases it; no byte is sent. -/
def Obligations.ZeroLengthSessionPulsesThePin : Prop :=
  ∀ (s : State) (p : Word), s.Inv → s.ctl.initialized = true → s.tx.state = .idle →
    ∃ u t : State, exec (.transmit p 0) s = .next u ∧ u.port.rspStatus = 0x00 ∧
      u.tx.dir = .transmit ∧ u.tx.state = .filling ∧ u.tx.cursor = 0 ∧ u.tx.len = 0 ∧
      exec .irqSerial u = .next t ∧ t.tx.dir = .receive ∧ t.tx.ie = false ∧ t.tx.state = .idle ∧
      t.wire = s.wire ∧ t.ser.thr = none ∧ t.ser.tsr = none ∧ t.mem = s.mem

/-- R168: the cursor is set to 0 by an accepted TRANSMIT, incremented by exactly 1 by a TXSTEP that writes a byte
(the byte at the cursor), and written by nothing else; no other operation writes a byte to the peripheral, so the
cursor counts the bytes of the session; it never passes the length. -/
def Obligations.CursorCountsBytesWritten : Prop :=
  ∀ (i : Instr) (s t : State), s.Inv → exec i s = .next t →
    t.tx.cursor ≤ t.tx.len ∧
    (∀ p l, i = .transmit p l → s.ctl.initialized = true → s.tx.state = .idle →
      t.tx.cursor = 0 ∧ t.ser.thr = s.ser.thr) ∧
    (i = .irqSerial → s.tx.ie = true → s.ser.thr = none → s.tx.cursor < s.tx.len →
      t.tx.cursor.toNat = s.tx.cursor.toNat + 1 ∧ t.tx.len = s.tx.len ∧
      t.ser.thr = some (memRead s (s.tx.ptr + s.tx.cursor))) ∧
    (¬ (∃ p l, i = .transmit p l ∧ s.ctl.initialized = true ∧ s.tx.state = .idle) →
      ¬ (i = .irqSerial ∧ s.tx.ie = true ∧ s.ser.thr = none ∧ s.tx.cursor < s.tx.len) →
      t.tx.cursor = s.tx.cursor ∧ (t.ser.thr = s.ser.thr ∨ i = .serLoad ∧ t.ser.thr = none))

/-- R171, its safety half: whatever occurs meanwhile, if the caller does not write the borrowed buffer, then when
an accepted session first returns to Idle exactly the buffer's bytes have been added to the wire, in order and
all intact. -/
def Obligations.SessionPutsTheBufferOnTheWire : Prop :=
  ∀ (ops : List Instr) (p l : Word) (s s' t : State), s.Inv → s.ctl.initialized = true → s.tx.state = .idle →
    exec (.transmit p l) s = .next s' → runOps ops s' = .next t →
    (∀ i ∈ ops, ¬ writesBuffer i p l) →
    (∀ (early : List Instr) (u : State), early <+: ops → early ≠ ops → runOps early s' = .next u →
      u.tx.state ≠ .idle) →
    t.tx.state = .idle →
    t.wire = s.wire ++ (bufferBytes s p l).map (fun b => (b, true)) ∧ t.tx.dir = .receive

/-- R171 with R233: in every fair execution an accepted session returns to Idle with the pin at Transmit until then,
and if the caller does not write the buffer before that, the wire has gained exactly the buffer's bytes, in order and
intact, before the step that releases the pin. -/
def Obligations.FairSessionCompletes : Prop :=
  ∀ (ops : Nat → Instr) (st : Nat → State) (p l : Word), Execution ops st → Fair ops st →
    (st 0).Inv → (st 0).ctl.initialized = true → (st 0).tx.state = .idle → ops 0 = .transmit p l →
    ∃ n, 0 < n ∧ (st (n + 1)).tx.state = .idle ∧ (st (n + 1)).tx.dir = .receive ∧
      (∀ m, 0 < m → m ≤ n → (st m).tx.state ≠ .idle ∧ (st m).tx.dir = .transmit) ∧
      ((∀ m, m ≤ n → ¬ writesBuffer (ops m) p l) →
        (st n).wire = (st 0).wire ++ (bufferBytes (st 0) p l).map (fun b => (b, true)) ∧
        (st (n + 1)).wire = (st n).wire)

/-- R171 on the prompt schedule: `L` rounds of IRQ_SERIAL, SER_LOAD, SER_DONE and one more IRQ_SERIAL send a
buffer of length `L` and return to Idle. -/
def Obligations.PromptServiceSendsTheFrame : Prop :=
  ∀ (s : State) (p l : Word), s.Inv → s.ctl.initialized = true → s.tx.state = .idle → s.ser.rxReady = false →
    ∃ t : State,
      runOps (.transmit p l :: ((List.replicate l.toNat [Instr.irqSerial, .serLoad, .serDone]).flatten
        ++ [.irqSerial])) s = .next t ∧
      t.tx.state = .idle ∧ t.tx.dir = .receive ∧ t.tx.ie = false ∧ t.tx.cursor = l ∧
      t.wire = s.wire ++ (bufferBytes s p l).map (fun b => (b, true)) ∧ t.ring = s.ring ∧ t.mem = s.mem

/-- R167: in Draining with the shift register busy, IRQ_SERIAL stays enabled and any number of occurrences change
nothing; after SER_DONE the next one releases the pin. -/
def Obligations.DrainingWaitsForTheShiftRegister : Prop :=
  ∀ (s : State) (n : Nat), s.Inv → s.tx.state = .draining → s.ser.thr = none → s.ser.tsr ≠ none →
    s.ser.rxReady = false →
    s.irqSerial = true ∧ runOps (List.replicate n .irqSerial) s = .next s ∧
    ∃ u t : State, exec .serDone s = .next u ∧ u.ser.txComplete = true ∧ exec .irqSerial u = .next t ∧
      t.tx.state = .idle ∧ t.tx.dir = .receive ∧ t.tx.ie = false

/-! ### Transport Controller (43_controller.md) -/

/-- R186, R183: the one successful INIT, what it writes and what it leaves; a second INIT changes nothing. -/
def Obligations.InitSetsUpTheBlockOnce : Prop :=
  ∀ (n d : Word) (s : State),
    (s.ctl.initialized = true →
      exec (.init n d) s = .next { s with port := { s.port with rspStatus := 0x06, rspData := 0 } }) ∧
    (s.ctl.initialized = false → ∃ t : State,
      exec (.init n d) s = .next t ∧
      t = { s with
        port := { s.port with rspStatus := 0x00, rspData := 0 }
        ctl := { initialized := true, nodeId := n, timeoutMs := d, rxIe := true, ovfIe := true, tmrRun := true }
        ring := { s.ring with head := 0, headLap := false, tail := 0, tailLap := false }
        accMs := 0
        tx := { s.tx with state := .idle, ptr := 0, len := 0, cursor := 0, ie := false, dir := .receive }
        peLog := s.peLog ++ [.peInit n] } ∧
      (s.Inv → t.statusReg = 0x000000E1 ∧ t.elapsed = 0 ∧ t.peLog = [.peInit n]))

/-- R185: before INIT the commands POP, LEN, TRANSMIT, NOW and POLL answer NOT_INIT and change nothing, RDREG
works, no event operation is enabled, and of the environment steps only MEM_WR is. -/
def Obligations.BeforeInitOnlyInitAndRdregWork : Prop :=
  ∀ s : State, s.Inv → s.ctl.initialized = false →
    (∀ i : Instr, (i ∈ [Instr.pop, .len, .now, .poll] ∨ ∃ p l, i = .transmit p l) →
      exec i s = .next { s with port := { s.port with rspStatus := 0x03, rspData := 0 } }) ∧
    (∀ n : Word, n.toNat ≤ 0x0E → ∃ t, exec (.rdreg n) s = .next t ∧ t.port.rspStatus = 0x00) ∧
    (∀ i : Instr, i.format = .event → ∀ t, exec i s ≠ .next t) ∧
    (∀ i : Instr, i.format = .environment → ((∃ t, exec i s = .next t) ↔ ∃ a v, i = .memWr a v))

/-- R187: POLL emits PE_UPDATE and changes no block state; before INIT it answers NOT_INIT. -/
def Obligations.PollNotifiesTheEngine : Prop :=
  ∀ s : State,
    (s.ctl.initialized = false →
      exec .poll s = .next { s with port := { s.port with rspStatus := 0x03, rspData := 0 } }) ∧
    (s.ctl.initialized = true →
      exec .poll s = .next { s with
        port := { s.port with rspStatus := 0x00, rspData := 0 }, peLog := s.peLog ++ [.peUpdate] })

/-- R188 with the registers R33 to R44 and R46: RDREG answers the register's value before and after INIT, or
BAD_REG above 0x0E, and changes nothing else. STATUS and PERIPH are bit by bit in the next two statements. -/
def Obligations.RdregReadsTheRegisterFile : Prop :=
  ∀ (n : Word) (s : State),
    (0x0E < n.toNat →
      exec (.rdreg n) s = .next { s with port := { s.port with rspStatus := 0x05, rspData := 0 } }) ∧
    (n.toNat ≤ 0x0E → ∃ v : Word,
      exec (.rdreg n) s = .next { s with port := { s.port with rspStatus := 0x00, rspData := v } } ∧
      (n = 0x00 → v = s.statusReg) ∧
      (n = 0x01 → v = BitVec.ofNat 32 s.ring.head) ∧
      (n = 0x02 → v = BitVec.ofNat 32 s.ring.tail) ∧
      (n = 0x03 → v = BitVec.ofNat 32 (s.ring.occ s.cfg.capacity)) ∧
      (n = 0x04 → v = BitVec.ofNat 32 s.cfg.capacity) ∧
      (n = 0x05 → v = s.ring.overrunCnt) ∧
      (n = 0x06 → v = s.tx.ptr) ∧
      (n = 0x07 → v = s.tx.len) ∧
      (n = 0x08 → v = s.tx.cursor) ∧
      (n = 0x09 → v = s.tx.busyCnt) ∧
      (n = 0x0A → v = s.accMs) ∧
      (n = 0x0B → v = s.ctl.nodeId) ∧
      (n = 0x0C → v = s.ctl.timeoutMs) ∧
      (n = 0x0D → v = s.periphReg) ∧
      (n = 0x0E → v = BitVec.ofNat 32 s.tmr.cnt))

/-- R32: the fields of STATUS, bit by bit, and its reset value. -/
def Obligations.StatusRegisterFields : Prop :=
  (∀ s : State,
    s.statusReg.getLsbD 0 = s.ctl.initialized ∧
    (s.statusReg.getLsbD 1 = true ↔ s.tx.dir = .transmit) ∧
    (s.statusReg.extractLsb' 2 2 = 0 ↔ s.tx.state = .idle) ∧
    (s.statusReg.extractLsb' 2 2 = 1 ↔ s.tx.state = .filling) ∧
    (s.statusReg.extractLsb' 2 2 = 2 ↔ s.tx.state = .draining) ∧
    s.statusReg.getLsbD 4 = s.tx.ie ∧
    s.statusReg.getLsbD 5 = s.ctl.rxIe ∧
    s.statusReg.getLsbD 6 = s.ctl.ovfIe ∧
    s.statusReg.getLsbD 7 = s.ctl.tmrRun ∧
    s.statusReg.getLsbD 8 = s.ring.overrun ∧
    s.statusReg.getLsbD 9 = s.tx.busyErr ∧
    s.statusReg.getLsbD 10 = s.ring.headLap ∧
    s.statusReg.getLsbD 11 = s.ring.tailLap ∧
    s.statusReg.extractLsb' 12 20 = 0) ∧
  (∀ c : Config, (State.resetWith c).statusReg = 0)

/-- R45, with the lines of R51: the fields of PERIPH, bit by bit, its reset value, and that reading it clears
nothing. -/
def Obligations.PeriphRegisterFields : Prop :=
  (∀ s : State,
    s.periphReg.getLsbD 0 = s.ser.rxReady ∧
    (s.periphReg.getLsbD 1 = true ↔ s.ser.thr = none) ∧
    (s.periphReg.getLsbD 2 = true ↔ s.ser.thr = none ∧ s.ser.tsr = none) ∧
    s.periphReg.getLsbD 3 = s.tmr.ovf ∧
    (s.periphReg.getLsbD 4 = true ↔
      (s.ctl.rxIe = true ∧ s.ser.rxReady = true) ∨ (s.tx.ie = true ∧ s.ser.thr = none)) ∧
    (s.periphReg.getLsbD 5 = true ↔ s.ctl.ovfIe = true ∧ s.tmr.ovf = true) ∧
    s.periphReg.extractLsb' 6 26 = 0 ∧
    (∀ t, exec (.rdreg 0x0D) s = .next t → t.port.rspData = s.periphReg ∧ t.ser = s.ser ∧ t.tmr = s.tmr)) ∧
  (∀ c : Config, (State.resetWith c).periphReg = 0x00000006)

/-- R191, R190, R51: IRQ_SERIAL is enabled iff its line is 1; each part runs iff its own condition holds, and the
frame of the whole handler. That a disabled one stops with the named fault is the model's reading (log entry 4), and
that `ser.rdr` keeps its byte after SerRead is the model's choice (log entry 14). -/
def Obligations.SerialHandlerServesEnabledConditions : Prop :=
  ∀ s : State,
    ((∃ t, exec .irqSerial s = .next t) ↔
      (s.ctl.rxIe = true ∧ s.ser.rxReady = true) ∨ (s.tx.ie = true ∧ s.ser.thr = none)) ∧
    ((∀ t, exec .irqSerial s ≠ .next t) → exec .irqSerial s = .fault .irqSerialNotEnabled) ∧
    ∀ t, exec .irqSerial s = .next t →
      (s.ctl.rxIe = true → s.ser.rxReady = true →
        t.ser.rxReady = false ∧ t.ring = s.ring.push s.cfg.capacity s.ser.rdr) ∧
      (s.ctl.rxIe = false ∨ s.ser.rxReady = false → t.ring = s.ring ∧ t.ser.rxReady = s.ser.rxReady) ∧
      (s.tx.ie = true → s.ser.thr = none → t.tx = (txStep s).tx ∧ t.ser.thr = (txStep s).ser.thr) ∧
      (s.tx.ie = false ∨ s.ser.thr ≠ none → t.tx = s.tx ∧ t.ser.thr = s.ser.thr) ∧
      t.ser.rdr = s.ser.rdr ∧ t.ser.tsr = s.ser.tsr ∧ t.ser.tsrDir = s.ser.tsrDir ∧ t.ser.rxLost = s.ser.rxLost ∧
      t.cfg = s.cfg ∧ t.schedule = s.schedule ∧ t.port = s.port ∧ t.ctl = s.ctl ∧ t.accMs = s.accMs ∧
      t.tmr = s.tmr ∧ t.wire = s.wire ∧ t.peLog = s.peLog ∧ (∀ a, memRead t a = memRead s a)

/-- R192: the two sub-behaviours commute, and one activation equals two that each serve one condition. -/
def Obligations.SubBehavioursCommute : Prop :=
  ∀ s : State, serveTx (serveRx s) = serveRx (serveTx s) ∧
    (s.irqSerial = true → exec .irqSerial s = .next (serveRx (serveTx s)))

/-- R68: LEN, NOW and RDREG of any register change nothing but the response, and repeating one gives the same
state again. -/
def Obligations.InspectionsAreIdempotent : Prop :=
  ∀ (i : Instr) (s t : State), (i = .len ∨ i = .now ∨ ∃ n, i = .rdreg n) → exec i s = .next t →
    t = { s with port := { s.port with rspStatus := t.port.rspStatus, rspData := t.port.rspData } } ∧
      exec i t = .next t

/-! ### Environment steps (44_environment.md) -/

/-- R201, R202: a tick counts up or wraps; the wrap sets the flag, and a wrap over a pending flag sets the ghost
fault bit. It is enabled iff `tmr_run = 1`; that a disabled one stops with the named fault is the model's reading (log
entry 4). -/
def Obligations.TickCountsAndWraps : Prop :=
  ∀ s : State,
    (s.ctl.tmrRun = false → exec .tmrTick s = .fault .tmrTickNotEnabled) ∧
    (s.ctl.tmrRun = true → s.tmr.cnt ≠ s.cfg.counterModulus - 1 →
      exec .tmrTick s = .next { s with tmr := { s.tmr with cnt := s.tmr.cnt + 1 } }) ∧
    (s.ctl.tmrRun = true → s.tmr.cnt = s.cfg.counterModulus - 1 → s.tmr.ovf = false →
      exec .tmrTick s = .next { s with tmr := { s.tmr with cnt := 0, ovf := true } }) ∧
    (s.ctl.tmrRun = true → s.tmr.cnt = s.cfg.counterModulus - 1 → s.tmr.ovf = true →
      exec .tmrTick s = .next { s with tmr := { s.tmr with cnt := 0, ovfLost := true } })

/-- R203, R204: an arriving byte fills the data register and makes IRQ_SERIAL enabled, or is lost while the previous
one is unread and sets the ghost fault bit. It is enabled iff `initialized = 1`; that a disabled one stops with the
named fault is the model's reading (log entry 4). -/
def Obligations.ArrivingByteIsHeldOrLost : Prop :=
  ∀ (b : Byte) (s : State),
    (s.ctl.initialized = false → exec (.serRx b) s = .fault .serRxNotEnabled) ∧
    (s.ctl.initialized = true → s.ser.rxReady = false →
      exec (.serRx b) s = .next { s with ser := { s.ser with rdr := b, rxReady := true } }) ∧
    (s.ctl.initialized = true → s.ser.rxReady = true →
      exec (.serRx b) s = .next { s with ser := { s.ser with rxLost := true } }) ∧
    (s.ctl.initialized = true → s.Inv → ∃ t, exec (.serRx b) s = .next t ∧ t.irqSerial = true)

/-- R205, R206: SER_LOAD moves the byte and records the pin; SER_DONE logs the byte, intact iff the pin was at
Transmit at both ends, and empties the shift register. Each is enabled exactly as its rule says; that a disabled one
stops with the named fault is the model's reading (log entry 4). -/
def Obligations.ShiftRegisterLoadsAndFinishes : Prop :=
  ∀ (s : State) (b : Byte),
    (s.ser.thr = some b → s.ser.tsr = none →
      exec .serLoad s = .next { s with ser := { s.ser with tsr := some b, tsrDir := s.tx.dir, thr := none } }) ∧
    (s.ser.thr = none ∨ s.ser.tsr ≠ none → exec .serLoad s = .fault .serLoadNotEnabled) ∧
    (s.ser.tsr = some b →
      exec .serDone s = .next { s with
        wire := s.wire ++ [(b, decide (s.ser.tsrDir = .transmit ∧ s.tx.dir = .transmit))]
        ser := { s.ser with tsr := none } }) ∧
    (s.ser.tsr = none → exec .serDone s = .fault .serDoneNotEnabled)

/-- R208, R63: MEM_WR is always enabled and writes exactly one byte of application memory; every other byte reads
as before, nothing else changes, and the memory keeps its canonical form, which is the model's choice (log entry 6). -/
def Obligations.MemWrWritesOneByte : Prop :=
  ∀ (a : Word) (v : Byte) (s : State), ∃ t : State, exec (.memWr a v) s = .next t ∧
    t = { s with mem := t.mem } ∧
    (∀ x : Word, memRead t x = if x = a then v else memRead s x) ∧
    (Memory.wf (2 ^ 32) s.mem → Memory.wf (2 ^ 32) t.mem)

/-! ### The whole machine -/

/-- R16, R220: every operation answers a next state exactly in the states where it is enabled; it is never
refused, and a disabled one stops (the stop is the model's reading, log entry 4). -/
def Obligations.OperationsAnswerExactlyWhenEnabled : Prop :=
  ∀ (i : Instr) (s : State),
    (enabled i s = true ↔ ∃ t, exec i s = .next t) ∧
    (enabled i s = false ↔ ∃ r, exec i s = .fault r) ∧
    (i.format = .command → enabled i s = true)

/-- R53, R261: what holds right after reset, under every configuration. The reset value of `ser.rdr` is
unspecified and not stated. -/
def Obligations.ResetLeavesTheBlockIdle : Prop :=
  ∀ (c : Config) (s : State), s = State.resetWith c →
    s.ctl.initialized = false ∧ s.ctl.nodeId = 0 ∧ s.ctl.timeoutMs = 0 ∧ s.accMs = 0 ∧
    s.ctl.rxIe = false ∧ s.tx.ie = false ∧ s.ctl.ovfIe = false ∧ s.ctl.tmrRun = false ∧
    s.ring.head = 0 ∧ s.ring.headLap = false ∧ s.ring.tail = 0 ∧ s.ring.tailLap = false ∧
    s.ring.overrunCnt = 0 ∧ s.ring.overrun = false ∧ s.ring.occ s.cfg.capacity = 0 ∧
    s.tx.state = .idle ∧ s.tx.ptr = 0 ∧ s.tx.len = 0 ∧ s.tx.cursor = 0 ∧ s.tx.dir = .receive ∧
    s.tx.busyCnt = 0 ∧ s.tx.busyErr = false ∧
    s.tmr.cnt = 0 ∧ s.tmr.ovf = false ∧ s.tmr.ovfLost = false ∧
    s.ser.rxReady = false ∧ s.ser.thr = none ∧ s.ser.tsr = none ∧ s.ser.tsrDir = .receive ∧ s.ser.rxLost = false ∧
    s.wire = [] ∧ s.peLog = [] ∧ s.irqSerial = false ∧ s.irqTimer = false ∧
    s.port.arg0 = 0 ∧ s.port.arg1 = 0 ∧ s.port.rspStatus = 0x00 ∧ s.port.rspData = 0

/-- The state after reset meets the invariant, under every well-formed configuration. -/
def Obligations.ResetMeetsTheInvariant : Prop :=
  ∀ c : Config, c.wf → (State.resetWith c).Inv

/-- Every operation and every step keeps the invariant, from every state that meets it. -/
def Obligations.EveryStepKeepsTheInvariant : Prop :=
  (∀ (i : Instr) (s t : State), s.Inv → exec i s = .next t → t.Inv) ∧
  (∀ s t : State, s.Inv → step s = .next t → t.Inv)

/-- R270: the indices stay in range in every reachable state. -/
def Obligations.ReachableIndicesInRange : Prop :=
  ∀ s : State, s.reachable → s.ring.head < s.cfg.capacity ∧ s.ring.tail < s.cfg.capacity

/-- R272: the sequencer is consistent in every reachable state; STATUS never shows the encoding 3. -/
def Obligations.ReachableSequencerIsConsistent : Prop :=
  ∀ s : State, s.reachable →
    (s.tx.state = .idle ↔ s.tx.ie = false) ∧ (s.tx.ie = false ↔ s.tx.dir = .receive) ∧
    s.tx.cursor ≤ s.tx.len ∧
    (s.tx.state = .filling → s.tx.cursor < s.tx.len ∨ s.tx.len = 0) ∧
    (s.tx.state = .draining → s.tx.cursor = s.tx.len) ∧
    s.statusReg.extractLsb' 2 2 ≠ 3

/-- R273: in every reachable state an idle sequencer has an idle peripheral; an accepted TRANSMIT enables
IRQ_SERIAL at once; row T7 is unreachable. -/
def Obligations.ReachableIdleMeansPeripheralIdle : Prop :=
  ∀ s : State, s.reachable →
    (s.tx.state = .idle → s.ser.thr = none ∧ s.ser.tsr = none ∧ s.ser.txReady = true ∧ s.ser.txComplete = true) ∧
    (s.tx.state = .idle → ∀ p l t, exec (.transmit p l) s = .next t → t.port.rspStatus = 0x00 →
      enabled .irqSerial t = true) ∧
    ¬ (s.tx.state = .filling ∧ s.txCondition = true ∧ s.tx.len ≤ s.tx.cursor ∧ s.ser.txComplete = false)

/-- R274: in every reachable state a byte in the peripheral is under Transmit, and every byte that has left was
intact. -/
def Obligations.ReachableBytesAreUnderTransmit : Prop :=
  ∀ s : State, s.reachable →
    (s.ser.thr ≠ none ∨ s.ser.tsr ≠ none → s.tx.dir = .transmit) ∧
    (s.ser.tsr ≠ none → s.ser.tsrDir = .transmit) ∧
    ∀ p ∈ s.wire, p.2 = true

/-- R209, R29, R30: the two ghost fault bits, the two error flags and `initialized` are sticky, and each error
counter moves only by 1 together with its flag. -/
def Obligations.FaultBitsAndErrorFlagsAreSticky : Prop :=
  (∀ s : State, s.noFault = true ↔ s.tmr.ovfLost = false ∧ s.ser.rxLost = false) ∧
  ∀ (i : Instr) (s t : State), exec i s = .next t →
    (s.tmr.ovfLost = true → t.tmr.ovfLost = true) ∧ (s.ser.rxLost = true → t.ser.rxLost = true) ∧
    (s.noFault = false → t.noFault = false) ∧
    (s.ring.overrun = true → t.ring.overrun = true) ∧ (s.tx.busyErr = true → t.tx.busyErr = true) ∧
    (s.ctl.initialized = true → t.ctl.initialized = true) ∧
    (t.ring.overrunCnt = s.ring.overrunCnt ∨
      (t.ring.overrunCnt = s.ring.overrunCnt + 1 ∧ t.ring.overrun = true)) ∧
    (t.tx.busyCnt = s.tx.busyCnt ∨ (t.tx.busyCnt = s.tx.busyCnt + 1 ∧ t.tx.busyErr = true))

/-- R20, R73: the owners of the state. Each element is written only by the operations that own it; the
configuration, the schedule and the operand latches by no operation. -/
def Obligations.EveryElementHasItsWriters : Prop :=
  ∀ (i : Instr) (s t : State), exec i s = .next t →
    t.cfg = s.cfg ∧ t.schedule = s.schedule ∧ t.port.arg0 = s.port.arg0 ∧ t.port.arg1 = s.port.arg1 ∧
    (i.format ≠ .command → t.port = s.port) ∧
    ((∀ a v, i ≠ .memWr a v) → t.mem = s.mem) ∧
    ((∀ n d, i ≠ .init n d) → t.ctl = s.ctl) ∧
    ((∀ n d, i ≠ .init n d) → i ≠ .irqTimer → t.accMs = s.accMs) ∧
    ((∀ n d, i ≠ .init n d) → i ≠ .irqSerial → t.ring.head = s.ring.head ∧ t.ring.headLap = s.ring.headLap) ∧
    (i ≠ .irqSerial → t.ring.slots = s.ring.slots ∧ t.ring.overrunCnt = s.ring.overrunCnt ∧
      t.ring.overrun = s.ring.overrun) ∧
    ((∀ n d, i ≠ .init n d) → i ≠ .pop → t.ring.tail = s.ring.tail ∧ t.ring.tailLap = s.ring.tailLap) ∧
    ((∀ n d, i ≠ .init n d) → (∀ p l, i ≠ .transmit p l) → i ≠ .irqSerial → t.tx = s.tx) ∧
    ((∀ p l, i ≠ .transmit p l) → t.tx.busyCnt = s.tx.busyCnt ∧ t.tx.busyErr = s.tx.busyErr) ∧
    (i ≠ .tmrTick → i ≠ .irqTimer → t.tmr = s.tmr) ∧
    (i ≠ .irqSerial → (∀ b, i ≠ .serRx b) → i ≠ .serLoad → i ≠ .serDone → t.ser = s.ser) ∧
    (i ≠ .serDone → t.wire = s.wire) ∧
    ((∀ n d, i ≠ .init n d) → i ≠ .poll → t.peLog = s.peLog)

/-- R284: a quiescent state is Idle with the pin at Receive, and in it only commands, TMR_TICK, SER_RX and MEM_WR
are enabled. -/
def Obligations.QuiescentStateIsIdle : Prop :=
  ∀ s : State, s.Inv → s.quiescent = true →
    s.tx.state = .idle ∧ s.tx.dir = .receive ∧
    ∀ i : Instr, enabled i s = true →
      i.format = .command ∨ i = .tmrTick ∨ (∃ b, i = .serRx b) ∨ ∃ a v, i = .memWr a v

/-- R101, R102: every mnemonic with its operands assembles to the word the spec prints for it, and no line assembles to
an operation of another mnemonic (`TICK` is POLL); RDREG with each of the fifteen register names is the word with that
register's number; every pseudo-operation expands as its row says. That a line comes split into its mnemonic and
numerals is the model's choice (log entry 13), and so is that `RX b` and `OVERFLOW` expand alike where their validity
condition fails (log entry 15). -/
def Obligations.AssemblyGivesThePrintedWords : Prop :=
  (∀ (a c : Word) (b : Byte),
    (assemble "INIT" [a, c]).map encode = some (0x01#8 ++ a ++ c) ∧
    (assemble "POP" []).map encode = some 0x02_00000000_00000000#72 ∧
    (assemble "LEN" []).map encode = some 0x03_00000000_00000000#72 ∧
    (assemble "TRANSMIT" [a, c]).map encode = some (0x04#8 ++ a ++ c) ∧
    (assemble "NOW" []).map encode = some 0x05_00000000_00000000#72 ∧
    (assemble "POLL" []).map encode = some 0x06_00000000_00000000#72 ∧
    (assemble "TICK" []).map encode = some 0x06_00000000_00000000#72 ∧
    (assemble "RDREG" [a]).map encode = some (0x07#8 ++ a ++ 0#32) ∧
    (assemble "IRQ_SERIAL" []).map encode = some 0x80_00000000_00000000#72 ∧
    (assemble "IRQ_TIMER" []).map encode = some 0x81_00000000_00000000#72 ∧
    (assemble "TMR_TICK" []).map encode = some 0x90_00000000_00000000#72 ∧
    (assemble "SER_RX" [b.setWidth 32]).map encode = some (0x91#8 ++ 0#56 ++ b) ∧
    (assemble "SER_LOAD" []).map encode = some 0x92_00000000_00000000#72 ∧
    (assemble "SER_DONE" []).map encode = some 0x93_00000000_00000000#72 ∧
    (assemble "MEM_WR" [a, b.setWidth 32]).map encode = some (0x94#8 ++ a ++ 0#24 ++ b)) ∧
  (∀ (m : String) (operands : List Word) (i : Instr), assemble m operands = some i →
    m = i.mnemonic ∨ (m = "TICK" ∧ i = .poll)) ∧
  (["STATUS", "RB_HEAD", "RB_TAIL", "RB_LEN", "RB_CAP", "RX_OVERRUN_CNT", "TX_PTR", "TX_LEN", "TX_CURSOR",
      "TX_BUSY_CNT", "CLK_ACC_MS", "NODE_ID", "TIMEOUT_MS", "PERIPH", "TMR_CNT"].map
      (fun name => (List.lookup name registerNames).bind fun n => (assemble "RDREG" [n]).map encode) = [
      some 0x07_00000000_00000000#72, some 0x07_00000001_00000000#72, some 0x07_00000002_00000000#72, some 0x07_00000003_00000000#72,
      some 0x07_00000004_00000000#72, some 0x07_00000005_00000000#72, some 0x07_00000006_00000000#72, some 0x07_00000007_00000000#72,
      some 0x07_00000008_00000000#72, some 0x07_00000009_00000000#72, some 0x07_0000000A_00000000#72, some 0x07_0000000B_00000000#72,
      some 0x07_0000000C_00000000#72, some 0x07_0000000D_00000000#72, some 0x07_0000000E_00000000#72]) ∧
  (∀ b : Byte, (pseudoRx b).map encode = [0x91#8 ++ 0#56 ++ b, 0x80_00000000_00000000#72]) ∧
  (∀ n : Nat, (pseudoTicks n).map encode = List.replicate n 0x90_00000000_00000000#72) ∧
  (∀ s : State, (pseudoOverflow s).map encode =
    List.replicate (s.cfg.counterModulus - s.tmr.cnt) 0x90_00000000_00000000#72 ++ [0x81_00000000_00000000#72]) ∧
  (∀ a b : Word, ((elapsedBetween a b).toNat : Int) = ((b.toNat : Int) - a.toNat) % 2 ^ 32)
end

