-- ==== Sys2Proof/Laws/Decode.lean ====
section
/-! SUPPORT. The fields of a packed word, and what the decoder can answer, once. -/

namespace Sys2Proof

@[simp] theorem opcodeOf_packWord (op : Byte) (a b : Word) : opcodeOf (packWord op a b) = op := by
  apply BitVec.eq_of_getLsbD_eq
  intro i hi
  simp only [opcodeOf, packWord, BitVec.getLsbD_extractLsb', BitVec.getLsbD_append]
  simp [hi, show ¬ (64 + i < 32) by omega, show ¬ (64 + i - 32 < 32) by omega,
    show 64 + i - 32 - 32 = i by omega]

@[simp] theorem arg0Of_packWord (op : Byte) (a b : Word) : arg0Of (packWord op a b) = a := by
  apply BitVec.eq_of_getLsbD_eq
  intro i hi
  simp only [arg0Of, packWord, BitVec.getLsbD_extractLsb', BitVec.getLsbD_append]
  simp [hi, show ¬ (32 + i < 32) by omega]

@[simp] theorem arg1Of_packWord (op : Byte) (a b : Word) : arg1Of (packWord op a b) = b := by
  apply BitVec.eq_of_getLsbD_eq
  intro i hi
  simp only [arg1Of, packWord, BitVec.getLsbD_extractLsb', BitVec.getLsbD_append]
  simp [hi]

/-- A byte operand survives its zero-extension into `arg1` (30_encoding.md R96). -/
@[simp] theorem byteOf_packWord (op : Byte) (a : Word) (b : Byte) :
    byteOf (packWord op a (b.setWidth 32)) = b := by
  apply BitVec.eq_of_getLsbD_eq
  intro i hi
  simp only [byteOf, arg1Of_packWord, BitVec.getLsbD_extractLsb', BitVec.getLsbD_setWidth]
  simp [hi, show i < 32 by omega]

/-- A word is the packing of its three fields (30_encoding.md R90). -/
theorem packWord_fields (w : OpWord) : w = packWord (opcodeOf w) (arg0Of w) (arg1Of w) := by
  apply BitVec.eq_of_getLsbD_eq; intro i hi
  simp only [packWord, opcodeOf, arg0Of, arg1Of, BitVec.getLsbD_append, BitVec.getLsbD_extractLsb']
  by_cases h1 : i < 32
  · simp [h1]
  · by_cases h2 : i - 32 < 32
    · simp [h1, h2]; congr 1; omega
    · have : i - 32 - 32 < 8 := by omega
      simp [h1, h2, this]; congr 1; omega

/-- Everything the decoder answers, with the opcode it answers it for (30_encoding.md R92, R97). -/
theorem decode_cases (w : OpWord) :
  (opcodeOf w = 0x01 ∧ decode w = .ok (.init (arg0Of w) (arg1Of w))) ∨
  (opcodeOf w = 0x02 ∧ decode w = .ok .pop) ∨
  (opcodeOf w = 0x03 ∧ decode w = .ok .len) ∨
  (opcodeOf w = 0x04 ∧ decode w = .ok (.transmit (arg0Of w) (arg1Of w))) ∨
  (opcodeOf w = 0x05 ∧ decode w = .ok .now) ∨
  (opcodeOf w = 0x06 ∧ decode w = .ok .poll) ∨
  (opcodeOf w = 0x07 ∧ decode w = .ok (.rdreg (arg0Of w))) ∨
  (opcodeOf w = 0x80 ∧ decode w = .ok .irqSerial) ∨
  (opcodeOf w = 0x81 ∧ decode w = .ok .irqTimer) ∨
  (opcodeOf w = 0x90 ∧ decode w = .ok .tmrTick) ∨
  (opcodeOf w = 0x91 ∧ decode w = .ok (.serRx (byteOf w))) ∨
  (opcodeOf w = 0x92 ∧ decode w = .ok .serLoad) ∨
  (opcodeOf w = 0x93 ∧ decode w = .ok .serDone) ∨
  (opcodeOf w = 0x94 ∧ decode w = .ok (.memWr (arg0Of w) (byteOf w))) ∨
  (opcodeOf w ∉ [0x01, 0x02, 0x03, 0x04, 0x05, 0x06, 0x07, 0x80, 0x81, 0x90, 0x91, 0x92, 0x93, (0x94 : Byte)] ∧
    decode w = .error (.reservedOpcode (opcodeOf w))) := by
  have key : ∀ n : Nat, n < 256 → ((opcodeOf w).toNat = n ↔ opcodeOf w = BitVec.ofNat 8 n) := fun n hn => by
    rw [BitVec.toNat_eq, BitVec.toNat_ofNat, Nat.mod_eq_of_lt hn]
  unfold decode
  split
  case h_15 =>
    refine .inr (.inr (.inr (.inr (.inr (.inr (.inr (.inr (.inr (.inr (.inr (.inr (.inr (.inr ⟨?_, rfl⟩)))))))))))))
    intro hm
    simp only [List.mem_cons, List.not_mem_nil, or_false] at hm
    rcases hm with e | e | e | e | e | e | e | e | e | e | e | e | e | e <;> simp_all
  all_goals
    rename_i h
    rw [key _ (by decide)] at h
    simp [h]

/-- A byte operand is the low byte of `arg1` (30_encoding.md R96). -/
theorem byteOf_eq_setWidth (w : OpWord) : byteOf w = (arg1Of w).setWidth 8 := by
  apply BitVec.eq_of_getLsbD_eq; intro i hi; simp [byteOf, hi]

end Sys2Proof
end

