-- ==== Sys2Proof/Laws/State.lean ====
section
/-! SUPPORT. One lemma per field per update of State, so that no later proof unfolds a record update. -/

namespace Sys2Proof.Machine

@[simp] theorem latchOperands_cfg (s : State) (w : OpWord) : (latchOperands s w).cfg = s.cfg := rfl
@[simp] theorem latchOperands_schedule (s : State) (w : OpWord) : (latchOperands s w).schedule = s.schedule := rfl
@[simp] theorem latchOperands_port (s : State) (w : OpWord) :
    (latchOperands s w).port = { s.port with arg0 := arg0Of w, arg1 := arg1Of w } := rfl
@[simp] theorem latchOperands_ctl (s : State) (w : OpWord) : (latchOperands s w).ctl = s.ctl := rfl
@[simp] theorem latchOperands_accMs (s : State) (w : OpWord) : (latchOperands s w).accMs = s.accMs := rfl
@[simp] theorem latchOperands_ring (s : State) (w : OpWord) : (latchOperands s w).ring = s.ring := rfl
@[simp] theorem latchOperands_tx (s : State) (w : OpWord) : (latchOperands s w).tx = s.tx := rfl
@[simp] theorem latchOperands_tmr (s : State) (w : OpWord) : (latchOperands s w).tmr = s.tmr := rfl
@[simp] theorem latchOperands_ser (s : State) (w : OpWord) : (latchOperands s w).ser = s.ser := rfl
@[simp] theorem latchOperands_mem (s : State) (w : OpWord) : (latchOperands s w).mem = s.mem := rfl
@[simp] theorem latchOperands_wire (s : State) (w : OpWord) : (latchOperands s w).wire = s.wire := rfl
@[simp] theorem latchOperands_peLog (s : State) (w : OpWord) : (latchOperands s w).peLog = s.peLog := rfl

@[simp] theorem memWrite_cfg (s : State) (addr : Word) (v : Byte) : (memWrite s addr v).cfg = s.cfg := rfl
@[simp] theorem memWrite_schedule (s : State) (addr : Word) (v : Byte) : (memWrite s addr v).schedule = s.schedule := rfl
@[simp] theorem memWrite_port (s : State) (addr : Word) (v : Byte) : (memWrite s addr v).port = s.port := rfl
@[simp] theorem memWrite_ctl (s : State) (addr : Word) (v : Byte) : (memWrite s addr v).ctl = s.ctl := rfl
@[simp] theorem memWrite_accMs (s : State) (addr : Word) (v : Byte) : (memWrite s addr v).accMs = s.accMs := rfl
@[simp] theorem memWrite_ring (s : State) (addr : Word) (v : Byte) : (memWrite s addr v).ring = s.ring := rfl
@[simp] theorem memWrite_tx (s : State) (addr : Word) (v : Byte) : (memWrite s addr v).tx = s.tx := rfl
@[simp] theorem memWrite_tmr (s : State) (addr : Word) (v : Byte) : (memWrite s addr v).tmr = s.tmr := rfl
@[simp] theorem memWrite_ser (s : State) (addr : Word) (v : Byte) : (memWrite s addr v).ser = s.ser := rfl
@[simp] theorem memWrite_mem (s : State) (addr : Word) (v : Byte) :
    (memWrite s addr v).mem = Memory.write s.mem addr.toNat v := rfl
@[simp] theorem memWrite_wire (s : State) (addr : Word) (v : Byte) : (memWrite s addr v).wire = s.wire := rfl
@[simp] theorem memWrite_peLog (s : State) (addr : Word) (v : Byte) : (memWrite s addr v).peLog = s.peLog := rfl

@[simp] theorem serRead_cfg (s : State) : (serRead s).cfg = s.cfg := rfl
@[simp] theorem serRead_schedule (s : State) : (serRead s).schedule = s.schedule := rfl
@[simp] theorem serRead_port (s : State) : (serRead s).port = s.port := rfl
@[simp] theorem serRead_ctl (s : State) : (serRead s).ctl = s.ctl := rfl
@[simp] theorem serRead_accMs (s : State) : (serRead s).accMs = s.accMs := rfl
@[simp] theorem serRead_ring (s : State) : (serRead s).ring = s.ring := rfl
@[simp] theorem serRead_tx (s : State) : (serRead s).tx = s.tx := rfl
@[simp] theorem serRead_tmr (s : State) : (serRead s).tmr = s.tmr := rfl
@[simp] theorem serRead_ser (s : State) :
    (serRead s).ser = { s.ser with rxReady := false } := rfl
@[simp] theorem serRead_mem (s : State) : (serRead s).mem = s.mem := rfl
@[simp] theorem serRead_wire (s : State) : (serRead s).wire = s.wire := rfl
@[simp] theorem serRead_peLog (s : State) : (serRead s).peLog = s.peLog := rfl

@[simp] theorem serWrite_cfg (s : State) (b : Byte) : (serWrite s b).cfg = s.cfg := rfl
@[simp] theorem serWrite_schedule (s : State) (b : Byte) : (serWrite s b).schedule = s.schedule := rfl
@[simp] theorem serWrite_port (s : State) (b : Byte) : (serWrite s b).port = s.port := rfl
@[simp] theorem serWrite_ctl (s : State) (b : Byte) : (serWrite s b).ctl = s.ctl := rfl
@[simp] theorem serWrite_accMs (s : State) (b : Byte) : (serWrite s b).accMs = s.accMs := rfl
@[simp] theorem serWrite_ring (s : State) (b : Byte) : (serWrite s b).ring = s.ring := rfl
@[simp] theorem serWrite_tx (s : State) (b : Byte) : (serWrite s b).tx = s.tx := rfl
@[simp] theorem serWrite_tmr (s : State) (b : Byte) : (serWrite s b).tmr = s.tmr := rfl
@[simp] theorem serWrite_ser (s : State) (b : Byte) : (serWrite s b).ser = { s.ser with thr := some b } := rfl
@[simp] theorem serWrite_mem (s : State) (b : Byte) : (serWrite s b).mem = s.mem := rfl
@[simp] theorem serWrite_wire (s : State) (b : Byte) : (serWrite s b).wire = s.wire := rfl
@[simp] theorem serWrite_peLog (s : State) (b : Byte) : (serWrite s b).peLog = s.peLog := rfl

@[simp] theorem tmrStatusRead_cfg (s : State) : (tmrStatusRead s).cfg = s.cfg := rfl
@[simp] theorem tmrStatusRead_schedule (s : State) : (tmrStatusRead s).schedule = s.schedule := rfl
@[simp] theorem tmrStatusRead_port (s : State) : (tmrStatusRead s).port = s.port := rfl
@[simp] theorem tmrStatusRead_ctl (s : State) : (tmrStatusRead s).ctl = s.ctl := rfl
@[simp] theorem tmrStatusRead_accMs (s : State) : (tmrStatusRead s).accMs = s.accMs := rfl
@[simp] theorem tmrStatusRead_ring (s : State) : (tmrStatusRead s).ring = s.ring := rfl
@[simp] theorem tmrStatusRead_tx (s : State) : (tmrStatusRead s).tx = s.tx := rfl
@[simp] theorem tmrStatusRead_tmr (s : State) : (tmrStatusRead s).tmr = { s.tmr with ovf := false } := rfl
@[simp] theorem tmrStatusRead_ser (s : State) : (tmrStatusRead s).ser = s.ser := rfl
@[simp] theorem tmrStatusRead_mem (s : State) : (tmrStatusRead s).mem = s.mem := rfl
@[simp] theorem tmrStatusRead_wire (s : State) : (tmrStatusRead s).wire = s.wire := rfl
@[simp] theorem tmrStatusRead_peLog (s : State) : (tmrStatusRead s).peLog = s.peLog := rfl

@[simp] theorem emit_cfg (s : State) (e : PeEvent) : (emit s e).cfg = s.cfg := rfl
@[simp] theorem emit_schedule (s : State) (e : PeEvent) : (emit s e).schedule = s.schedule := rfl
@[simp] theorem emit_port (s : State) (e : PeEvent) : (emit s e).port = s.port := rfl
@[simp] theorem emit_ctl (s : State) (e : PeEvent) : (emit s e).ctl = s.ctl := rfl
@[simp] theorem emit_accMs (s : State) (e : PeEvent) : (emit s e).accMs = s.accMs := rfl
@[simp] theorem emit_ring (s : State) (e : PeEvent) : (emit s e).ring = s.ring := rfl
@[simp] theorem emit_tx (s : State) (e : PeEvent) : (emit s e).tx = s.tx := rfl
@[simp] theorem emit_tmr (s : State) (e : PeEvent) : (emit s e).tmr = s.tmr := rfl
@[simp] theorem emit_ser (s : State) (e : PeEvent) : (emit s e).ser = s.ser := rfl
@[simp] theorem emit_mem (s : State) (e : PeEvent) : (emit s e).mem = s.mem := rfl
@[simp] theorem emit_wire (s : State) (e : PeEvent) : (emit s e).wire = s.wire := rfl
@[simp] theorem emit_peLog (s : State) (e : PeEvent) : (emit s e).peLog = s.peLog ++ [e] := rfl

@[simp] theorem respond_cfg (s : State) (r : Status) (d : Word) : (respond s r d).cfg = s.cfg := rfl
@[simp] theorem respond_schedule (s : State) (r : Status) (d : Word) : (respond s r d).schedule = s.schedule := rfl
@[simp] theorem respond_port (s : State) (r : Status) (d : Word) :
    (respond s r d).port = { s.port with rspStatus := r.code, rspData := d } := rfl
@[simp] theorem respond_ctl (s : State) (r : Status) (d : Word) : (respond s r d).ctl = s.ctl := rfl
@[simp] theorem respond_accMs (s : State) (r : Status) (d : Word) : (respond s r d).accMs = s.accMs := rfl
@[simp] theorem respond_ring (s : State) (r : Status) (d : Word) : (respond s r d).ring = s.ring := rfl
@[simp] theorem respond_tx (s : State) (r : Status) (d : Word) : (respond s r d).tx = s.tx := rfl
@[simp] theorem respond_tmr (s : State) (r : Status) (d : Word) : (respond s r d).tmr = s.tmr := rfl
@[simp] theorem respond_ser (s : State) (r : Status) (d : Word) : (respond s r d).ser = s.ser := rfl
@[simp] theorem respond_mem (s : State) (r : Status) (d : Word) : (respond s r d).mem = s.mem := rfl
@[simp] theorem respond_wire (s : State) (r : Status) (d : Word) : (respond s r d).wire = s.wire := rfl
@[simp] theorem respond_peLog (s : State) (r : Status) (d : Word) : (respond s r d).peLog = s.peLog := rfl

@[simp] theorem scheduleFirst_cfg (s : State) (e : Entry) : (scheduleFirst s e).cfg = s.cfg := rfl
@[simp] theorem scheduleFirst_schedule (s : State) (e : Entry) : (scheduleFirst s e).schedule = e :: s.schedule := rfl
@[simp] theorem scheduleFirst_port (s : State) (e : Entry) : (scheduleFirst s e).port = s.port := rfl
@[simp] theorem scheduleFirst_ctl (s : State) (e : Entry) : (scheduleFirst s e).ctl = s.ctl := rfl
@[simp] theorem scheduleFirst_accMs (s : State) (e : Entry) : (scheduleFirst s e).accMs = s.accMs := rfl
@[simp] theorem scheduleFirst_ring (s : State) (e : Entry) : (scheduleFirst s e).ring = s.ring := rfl
@[simp] theorem scheduleFirst_tx (s : State) (e : Entry) : (scheduleFirst s e).tx = s.tx := rfl
@[simp] theorem scheduleFirst_tmr (s : State) (e : Entry) : (scheduleFirst s e).tmr = s.tmr := rfl
@[simp] theorem scheduleFirst_ser (s : State) (e : Entry) : (scheduleFirst s e).ser = s.ser := rfl
@[simp] theorem scheduleFirst_mem (s : State) (e : Entry) : (scheduleFirst s e).mem = s.mem := rfl
@[simp] theorem scheduleFirst_wire (s : State) (e : Entry) : (scheduleFirst s e).wire = s.wire := rfl
@[simp] theorem scheduleFirst_peLog (s : State) (e : Entry) : (scheduleFirst s e).peLog = s.peLog := rfl

@[simp] theorem addPeriod_cfg (s : State) : (addPeriod s).cfg = s.cfg := rfl
@[simp] theorem addPeriod_schedule (s : State) : (addPeriod s).schedule = s.schedule := rfl
@[simp] theorem addPeriod_port (s : State) : (addPeriod s).port = s.port := rfl
@[simp] theorem addPeriod_ctl (s : State) : (addPeriod s).ctl = s.ctl := rfl
@[simp] theorem addPeriod_accMs (s : State) :
    (addPeriod s).accMs = s.accMs + BitVec.ofNat 32 s.cfg.overflowPeriodMs := rfl
@[simp] theorem addPeriod_ring (s : State) : (addPeriod s).ring = s.ring := rfl
@[simp] theorem addPeriod_tx (s : State) : (addPeriod s).tx = s.tx := rfl
@[simp] theorem addPeriod_tmr (s : State) : (addPeriod s).tmr = s.tmr := rfl
@[simp] theorem addPeriod_ser (s : State) : (addPeriod s).ser = s.ser := rfl
@[simp] theorem addPeriod_mem (s : State) : (addPeriod s).mem = s.mem := rfl
@[simp] theorem addPeriod_wire (s : State) : (addPeriod s).wire = s.wire := rfl
@[simp] theorem addPeriod_peLog (s : State) : (addPeriod s).peLog = s.peLog := rfl

@[simp] theorem countBusy_cfg (s : State) : (countBusy s).cfg = s.cfg := rfl
@[simp] theorem countBusy_schedule (s : State) : (countBusy s).schedule = s.schedule := rfl
@[simp] theorem countBusy_port (s : State) : (countBusy s).port = s.port := rfl
@[simp] theorem countBusy_ctl (s : State) : (countBusy s).ctl = s.ctl := rfl
@[simp] theorem countBusy_accMs (s : State) : (countBusy s).accMs = s.accMs := rfl
@[simp] theorem countBusy_ring (s : State) : (countBusy s).ring = s.ring := rfl
@[simp] theorem countBusy_tx (s : State) :
    (countBusy s).tx = { s.tx with busyCnt := s.tx.busyCnt + 1, busyErr := true } := rfl
@[simp] theorem countBusy_tmr (s : State) : (countBusy s).tmr = s.tmr := rfl
@[simp] theorem countBusy_ser (s : State) : (countBusy s).ser = s.ser := rfl
@[simp] theorem countBusy_mem (s : State) : (countBusy s).mem = s.mem := rfl
@[simp] theorem countBusy_wire (s : State) : (countBusy s).wire = s.wire := rfl
@[simp] theorem countBusy_peLog (s : State) : (countBusy s).peLog = s.peLog := rfl

@[simp] theorem startSession_cfg (s : State) (ptr length : Word) : (startSession s ptr length).cfg = s.cfg := rfl
@[simp] theorem startSession_schedule (s : State) (ptr length : Word) : (startSession s ptr length).schedule = s.schedule := rfl
@[simp] theorem startSession_port (s : State) (ptr length : Word) : (startSession s ptr length).port = s.port := rfl
@[simp] theorem startSession_ctl (s : State) (ptr length : Word) : (startSession s ptr length).ctl = s.ctl := rfl
@[simp] theorem startSession_accMs (s : State) (ptr length : Word) : (startSession s ptr length).accMs = s.accMs := rfl
@[simp] theorem startSession_ring (s : State) (ptr length : Word) : (startSession s ptr length).ring = s.ring := rfl
@[simp] theorem startSession_tx (s : State) (ptr length : Word) :
    (startSession s ptr length).tx = { s.tx with dir := .transmit, ptr := ptr, len := length, cursor := 0, ie := true, state := .filling } := rfl
@[simp] theorem startSession_tmr (s : State) (ptr length : Word) : (startSession s ptr length).tmr = s.tmr := rfl
@[simp] theorem startSession_ser (s : State) (ptr length : Word) : (startSession s ptr length).ser = s.ser := rfl
@[simp] theorem startSession_mem (s : State) (ptr length : Word) : (startSession s ptr length).mem = s.mem := rfl
@[simp] theorem startSession_wire (s : State) (ptr length : Word) : (startSession s ptr length).wire = s.wire := rfl
@[simp] theorem startSession_peLog (s : State) (ptr length : Word) : (startSession s ptr length).peLog = s.peLog := rfl

@[simp] theorem txWriteByte_cfg (s : State) : (txWriteByte s).cfg = s.cfg := rfl
@[simp] theorem txWriteByte_schedule (s : State) : (txWriteByte s).schedule = s.schedule := rfl
@[simp] theorem txWriteByte_port (s : State) : (txWriteByte s).port = s.port := rfl
@[simp] theorem txWriteByte_ctl (s : State) : (txWriteByte s).ctl = s.ctl := rfl
@[simp] theorem txWriteByte_accMs (s : State) : (txWriteByte s).accMs = s.accMs := rfl
@[simp] theorem txWriteByte_ring (s : State) : (txWriteByte s).ring = s.ring := rfl
@[simp] theorem txWriteByte_tx (s : State) :
    (txWriteByte s).tx = { s.tx with cursor := s.tx.cursor + 1, state := if s.tx.cursor + 1 = s.tx.len then .draining else .filling } := rfl
@[simp] theorem txWriteByte_tmr (s : State) : (txWriteByte s).tmr = s.tmr := rfl
@[simp] theorem txWriteByte_ser (s : State) :
    (txWriteByte s).ser = { s.ser with thr := some (memRead s s.txAddress) } := rfl
@[simp] theorem txWriteByte_mem (s : State) : (txWriteByte s).mem = s.mem := rfl
@[simp] theorem txWriteByte_wire (s : State) : (txWriteByte s).wire = s.wire := rfl
@[simp] theorem txWriteByte_peLog (s : State) : (txWriteByte s).peLog = s.peLog := rfl

@[simp] theorem txRelease_cfg (s : State) : (txRelease s).cfg = s.cfg := rfl
@[simp] theorem txRelease_schedule (s : State) : (txRelease s).schedule = s.schedule := rfl
@[simp] theorem txRelease_port (s : State) : (txRelease s).port = s.port := rfl
@[simp] theorem txRelease_ctl (s : State) : (txRelease s).ctl = s.ctl := rfl
@[simp] theorem txRelease_accMs (s : State) : (txRelease s).accMs = s.accMs := rfl
@[simp] theorem txRelease_ring (s : State) : (txRelease s).ring = s.ring := rfl
@[simp] theorem txRelease_tx (s : State) :
    (txRelease s).tx = { s.tx with dir := .receive, ie := false, state := .idle } := rfl
@[simp] theorem txRelease_tmr (s : State) : (txRelease s).tmr = s.tmr := rfl
@[simp] theorem txRelease_ser (s : State) : (txRelease s).ser = s.ser := rfl
@[simp] theorem txRelease_mem (s : State) : (txRelease s).mem = s.mem := rfl
@[simp] theorem txRelease_wire (s : State) : (txRelease s).wire = s.wire := rfl
@[simp] theorem txRelease_peLog (s : State) : (txRelease s).peLog = s.peLog := rfl

@[simp] theorem txWait_cfg (s : State) : (txWait s).cfg = s.cfg := rfl
@[simp] theorem txWait_schedule (s : State) : (txWait s).schedule = s.schedule := rfl
@[simp] theorem txWait_port (s : State) : (txWait s).port = s.port := rfl
@[simp] theorem txWait_ctl (s : State) : (txWait s).ctl = s.ctl := rfl
@[simp] theorem txWait_accMs (s : State) : (txWait s).accMs = s.accMs := rfl
@[simp] theorem txWait_ring (s : State) : (txWait s).ring = s.ring := rfl
@[simp] theorem txWait_tx (s : State) :
    (txWait s).tx = { s.tx with state := .draining } := rfl
@[simp] theorem txWait_tmr (s : State) : (txWait s).tmr = s.tmr := rfl
@[simp] theorem txWait_ser (s : State) : (txWait s).ser = s.ser := rfl
@[simp] theorem txWait_mem (s : State) : (txWait s).mem = s.mem := rfl
@[simp] theorem txWait_wire (s : State) : (txWait s).wire = s.wire := rfl
@[simp] theorem txWait_peLog (s : State) : (txWait s).peLog = s.peLog := rfl

@[simp] theorem initialised_cfg (s : State) (n t : Word) : (initialised s n t).cfg = s.cfg := rfl
@[simp] theorem initialised_schedule (s : State) (n t : Word) : (initialised s n t).schedule = s.schedule := rfl
@[simp] theorem initialised_port (s : State) (n t : Word) : (initialised s n t).port = s.port := rfl
@[simp] theorem initialised_ctl (s : State) (n t : Word) :
    (initialised s n t).ctl = { initialized := true, nodeId := n, timeoutMs := t, rxIe := true, ovfIe := true, tmrRun := true } := rfl
@[simp] theorem initialised_accMs (s : State) (n t : Word) : (initialised s n t).accMs = 0 := rfl
@[simp] theorem initialised_ring (s : State) (n t : Word) :
    (initialised s n t).ring = { s.ring with head := 0, headLap := false, tail := 0, tailLap := false } := rfl
@[simp] theorem initialised_tx (s : State) (n t : Word) :
    (initialised s n t).tx = { s.tx with state := .idle, ptr := 0, len := 0, cursor := 0, ie := false, dir := .receive } := rfl
@[simp] theorem initialised_tmr (s : State) (n t : Word) : (initialised s n t).tmr = s.tmr := rfl
@[simp] theorem initialised_ser (s : State) (n t : Word) : (initialised s n t).ser = s.ser := rfl
@[simp] theorem initialised_mem (s : State) (n t : Word) : (initialised s n t).mem = s.mem := rfl
@[simp] theorem initialised_wire (s : State) (n t : Word) : (initialised s n t).wire = s.wire := rfl
@[simp] theorem initialised_peLog (s : State) (n t : Word) : (initialised s n t).peLog = s.peLog := rfl

@[simp] theorem loadShift_cfg (s : State) : (loadShift s).cfg = s.cfg := rfl
@[simp] theorem loadShift_schedule (s : State) : (loadShift s).schedule = s.schedule := rfl
@[simp] theorem loadShift_port (s : State) : (loadShift s).port = s.port := rfl
@[simp] theorem loadShift_ctl (s : State) : (loadShift s).ctl = s.ctl := rfl
@[simp] theorem loadShift_accMs (s : State) : (loadShift s).accMs = s.accMs := rfl
@[simp] theorem loadShift_ring (s : State) : (loadShift s).ring = s.ring := rfl
@[simp] theorem loadShift_tx (s : State) : (loadShift s).tx = s.tx := rfl
@[simp] theorem loadShift_tmr (s : State) : (loadShift s).tmr = s.tmr := rfl
@[simp] theorem loadShift_ser (s : State) :
    (loadShift s).ser = { s.ser with tsr := s.ser.thr, tsrDir := s.tx.dir, thr := none } := rfl
@[simp] theorem loadShift_mem (s : State) : (loadShift s).mem = s.mem := rfl
@[simp] theorem loadShift_wire (s : State) : (loadShift s).wire = s.wire := rfl
@[simp] theorem loadShift_peLog (s : State) : (loadShift s).peLog = s.peLog := rfl

@[simp] theorem finishByte_cfg (s : State) (b : Byte) : (finishByte s b).cfg = s.cfg := rfl
@[simp] theorem finishByte_schedule (s : State) (b : Byte) : (finishByte s b).schedule = s.schedule := rfl
@[simp] theorem finishByte_port (s : State) (b : Byte) : (finishByte s b).port = s.port := rfl
@[simp] theorem finishByte_ctl (s : State) (b : Byte) : (finishByte s b).ctl = s.ctl := rfl
@[simp] theorem finishByte_accMs (s : State) (b : Byte) : (finishByte s b).accMs = s.accMs := rfl
@[simp] theorem finishByte_ring (s : State) (b : Byte) : (finishByte s b).ring = s.ring := rfl
@[simp] theorem finishByte_tx (s : State) (b : Byte) : (finishByte s b).tx = s.tx := rfl
@[simp] theorem finishByte_tmr (s : State) (b : Byte) : (finishByte s b).tmr = s.tmr := rfl
@[simp] theorem finishByte_ser (s : State) (b : Byte) : (finishByte s b).ser = { s.ser with tsr := none } := rfl
@[simp] theorem finishByte_mem (s : State) (b : Byte) : (finishByte s b).mem = s.mem := rfl
@[simp] theorem finishByte_wire (s : State) (b : Byte) :
    (finishByte s b).wire = s.wire ++ [(b, s.ser.tsrDir.asserted && s.tx.dir.asserted)] := rfl
@[simp] theorem finishByte_peLog (s : State) (b : Byte) : (finishByte s b).peLog = s.peLog := rfl

@[simp] theorem Ring.drop_slots (r : Ring) : (Ring.drop r).slots = r.slots := rfl
@[simp] theorem Ring.drop_head (r : Ring) : (Ring.drop r).head = r.head := rfl
@[simp] theorem Ring.drop_headLap (r : Ring) : (Ring.drop r).headLap = r.headLap := rfl
@[simp] theorem Ring.drop_tail (r : Ring) : (Ring.drop r).tail = r.tail := rfl
@[simp] theorem Ring.drop_tailLap (r : Ring) : (Ring.drop r).tailLap = r.tailLap := rfl
@[simp] theorem Ring.drop_overrunCnt (r : Ring) : (Ring.drop r).overrunCnt = r.overrunCnt + 1 := rfl
@[simp] theorem Ring.drop_overrun (r : Ring) : (Ring.drop r).overrun = true := rfl

@[simp] theorem Ring.accept_slots (c : Nat) (r : Ring) (b : Byte) : (Ring.accept c r b).slots = Memory.write r.slots r.head b := rfl
@[simp] theorem Ring.accept_head (c : Nat) (r : Ring) (b : Byte) : (Ring.accept c r b).head = (adv c r.head r.headLap).1 := rfl
@[simp] theorem Ring.accept_headLap (c : Nat) (r : Ring) (b : Byte) : (Ring.accept c r b).headLap = (adv c r.head r.headLap).2 := rfl
@[simp] theorem Ring.accept_tail (c : Nat) (r : Ring) (b : Byte) : (Ring.accept c r b).tail = r.tail := rfl
@[simp] theorem Ring.accept_tailLap (c : Nat) (r : Ring) (b : Byte) : (Ring.accept c r b).tailLap = r.tailLap := rfl
@[simp] theorem Ring.accept_overrunCnt (c : Nat) (r : Ring) (b : Byte) : (Ring.accept c r b).overrunCnt = r.overrunCnt := rfl
@[simp] theorem Ring.accept_overrun (c : Nat) (r : Ring) (b : Byte) : (Ring.accept c r b).overrun = r.overrun := rfl

@[simp] theorem Ring.remove_slots (c : Nat) (r : Ring) : (Ring.remove c r).slots = r.slots := rfl
@[simp] theorem Ring.remove_head (c : Nat) (r : Ring) : (Ring.remove c r).head = r.head := rfl
@[simp] theorem Ring.remove_headLap (c : Nat) (r : Ring) : (Ring.remove c r).headLap = r.headLap := rfl
@[simp] theorem Ring.remove_tail (c : Nat) (r : Ring) : (Ring.remove c r).tail = (adv c r.tail r.tailLap).1 := rfl
@[simp] theorem Ring.remove_tailLap (c : Nat) (r : Ring) : (Ring.remove c r).tailLap = (adv c r.tail r.tailLap).2 := rfl
@[simp] theorem Ring.remove_overrunCnt (c : Nat) (r : Ring) : (Ring.remove c r).overrunCnt = r.overrunCnt := rfl
@[simp] theorem Ring.remove_overrun (c : Nat) (r : Ring) : (Ring.remove c r).overrun = r.overrun := rfl

end Sys2Proof.Machine
end

