-- ==== Sys2Proof/Laws/Outcome.lean ====
section
/-! SUPPORT. The two guards of the meanings, once. -/

namespace Sys2Proof.Machine

/-- A guarded command always answers a next state. -/
theorem ifInitialized_eq (s r : State) :
    ifInitialized s r = .next (if s.ctl.initialized then r else respond s .notInit 0) := by
  unfold ifInitialized; split <;> rfl

theorem ifInitialized_next {s r t : State} :
    ifInitialized s r = .next t ↔ t = if s.ctl.initialized then r else respond s .notInit 0 := by
  rw [ifInitialized_eq]
  exact ⟨fun h => by injection h with h; exact h.symm, fun h => by rw [h]⟩

/-- A guarded step answers a next state exactly where it is enabled. -/
theorem ifEnabled_next {c : Bool} {f : Fault} {r t : State} :
    ifEnabled c f r = .next t ↔ c = true ∧ t = r := by
  unfold ifEnabled
  cases c
  · simp
  · exact ⟨fun h => ⟨rfl, by injection h with h; exact h.symm⟩, fun h => by rw [h.2]; rfl⟩

theorem ifEnabled_fault {c : Bool} {f : Fault} {r : State} (h : c = false) : ifEnabled c f r = .fault f := by
  subst h; rfl

end Sys2Proof.Machine
end

