-- ==== Sys2Proof/Laws/Exec.lean ====
section
/-! SUPPORT. What each operation can do when it answers a next state, once. Every later proof about `exec`
cites these and unfolds no meaning. -/

namespace Sys2Proof.Machine

theorem exec_init {n d : Word} {s t : State} (h : exec (.init n d) s = .next t) :
    (s.ctl.initialized = true ∧ t = respond s .alreadyInit 0) ∨
    (s.ctl.initialized = false ∧ t = respond (emit (initialised s n d) (.peInit n)) .ok 0) := by
  simp only [exec, execInit] at h
  split at h <;> injection h with h <;> simp_all

theorem exec_pop {s t : State} (h : exec .pop s = .next t) :
    (s.ctl.initialized = false ∧ t = respond s .notInit 0) ∨
    (s.ctl.initialized = true ∧ s.ring.isEmpty = true ∧ t = respond s .empty 0) ∨
    (s.ctl.initialized = true ∧ s.ring.isEmpty = false ∧
      t = respond { s with ring := s.ring.remove s.cfg.capacity } .ok ((s.ring.slot s.ring.tail).setWidth 32)) := by
  rw [exec, execPop, ifInitialized_next] at h
  cases hi : s.ctl.initialized <;> cases he : s.ring.isEmpty <;> simp_all

theorem exec_len {s t : State} (h : exec .len s = .next t) :
    (s.ctl.initialized = false ∧ t = respond s .notInit 0) ∨
    (s.ctl.initialized = true ∧ t = respond s .ok (BitVec.ofNat 32 (s.ring.occ s.cfg.capacity))) := by
  rw [exec, execLen, ifInitialized_next] at h
  cases hi : s.ctl.initialized <;> simp_all

theorem exec_transmit {p l : Word} {s t : State} (h : exec (.transmit p l) s = .next t) :
    (s.ctl.initialized = false ∧ t = respond s .notInit 0) ∨
    (s.ctl.initialized = true ∧ s.tx.state = .idle ∧ t = respond (startSession s p l) .ok 0) ∨
    (s.ctl.initialized = true ∧ s.tx.state ≠ .idle ∧ t = respond (countBusy s) .busy 0) := by
  rw [exec, execTransmit, ifInitialized_next] at h
  cases hi : s.ctl.initialized <;> by_cases he : s.tx.state = .idle <;> simp_all

theorem exec_now {s t : State} (h : exec .now s = .next t) :
    (s.ctl.initialized = false ∧ t = respond s .notInit 0) ∨
    (s.ctl.initialized = true ∧ t = respond s .ok s.elapsed) := by
  rw [exec, execNow, ifInitialized_next] at h
  cases hi : s.ctl.initialized <;> simp_all

theorem exec_poll {s t : State} (h : exec .poll s = .next t) :
    (s.ctl.initialized = false ∧ t = respond s .notInit 0) ∨
    (s.ctl.initialized = true ∧ t = respond (emit s .peUpdate) .ok 0) := by
  rw [exec, execPoll, ifInitialized_next] at h
  cases hi : s.ctl.initialized <;> simp_all

theorem exec_rdreg {n : Word} {s t : State} (h : exec (.rdreg n) s = .next t) :
    (∃ v, readReg s n.toNat = some v ∧ t = respond s .ok v) ∨
    (readReg s n.toNat = none ∧ t = respond s .badReg 0) := by
  simp only [exec, execRdreg] at h
  split at h
  · next v hv => injection h with h; exact .inl ⟨v, hv, h.symm⟩
  · next hv => injection h with h; exact .inr ⟨hv, h.symm⟩

theorem exec_irqSerial {s t : State} :
    exec .irqSerial s = .next t ↔ s.irqSerial = true ∧ t = serveTx (serveRx s) := ifEnabled_next

theorem exec_irqTimer {s t : State} :
    exec .irqTimer s = .next t ↔ s.irqTimer = true ∧ t = addPeriod (tmrStatusRead s) := ifEnabled_next

theorem exec_tmrTick {s t : State} :
    exec .tmrTick s = .next t ↔ s.ctl.tmrRun = true ∧ t = { s with tmr := s.tmr.tick s.cfg.counterModulus } :=
  ifEnabled_next

theorem exec_serRx {b : Byte} {s t : State} :
    exec (.serRx b) s = .next t ↔ s.ctl.initialized = true ∧ t = { s with ser := s.ser.arrive b } :=
  ifEnabled_next

theorem exec_serLoad {s t : State} :
    exec .serLoad s = .next t ↔ s.ser.loadEnabled = true ∧ t = loadShift s := ifEnabled_next

theorem exec_serDone {s t : State} :
    exec .serDone s = .next t ↔ ∃ b, s.ser.tsr = some b ∧ t = finishByte s b := by
  simp only [exec, execSerDone]
  cases hb : s.ser.tsr with
  | none => simp
  | some b =>
    simp only [Option.some.injEq, exists_eq_left']
    exact ⟨fun h => by injection h with h; exact h.symm, fun h => by rw [h]⟩

theorem exec_memWr {a : Word} {v : Byte} {s t : State} :
    exec (.memWr a v) s = .next t ↔ t = memWrite s a v := by
  simp only [exec, execMemWr]
  exact ⟨fun h => by injection h with h; exact h.symm, fun h => by rw [h]⟩

/-- TXSTEP is one of three (42_txseq.md R165). -/
theorem txStep_cases (s : State) :
    (s.tx.cursor < s.tx.len ∧ txStep s = txWriteByte s) ∨
    (¬ s.tx.cursor < s.tx.len ∧ s.ser.txComplete = true ∧ txStep s = txRelease s) ∨
    (¬ s.tx.cursor < s.tx.len ∧ s.ser.txComplete = false ∧ txStep s = txWait s) := by
  unfold txStep
  by_cases h : s.tx.cursor < s.tx.len <;> cases hc : s.ser.txComplete <;> simp [h]

/-- The TX part of IRQ_SERIAL writes the sequencer and the holding register and nothing else. -/
theorem serveTx_cases (s : State) :
    (s.txCondition = false ∧ serveTx s = s) ∨
    (s.txCondition = true ∧ s.tx.cursor < s.tx.len ∧ serveTx s = txWriteByte s) ∨
    (s.txCondition = true ∧ ¬ s.tx.cursor < s.tx.len ∧ s.ser.txComplete = true ∧ serveTx s = txRelease s) ∨
    (s.txCondition = true ∧ ¬ s.tx.cursor < s.tx.len ∧ s.ser.txComplete = false ∧ serveTx s = txWait s) := by
  unfold serveTx
  cases ht : s.txCondition
  · simp
  · rcases txStep_cases s with h | h | h <;> simp [h]

/-- The RX part of IRQ_SERIAL writes the ring and `ser.rx_ready` and nothing else. -/
theorem serveRx_cases (s : State) :
    (s.rxCondition = false ∧ serveRx s = s) ∨
    (s.rxCondition = true ∧
      serveRx s = { serRead s with ring := s.ring.push s.cfg.capacity s.ser.rdr }) := by
  unfold serveRx
  cases h : s.rxCondition <;> simp [serReadByte]

/-- The register file ends at `0x0E` (10_state.md R31). -/
theorem readReg_some (s : State) {n : Nat} (h : n ≤ 14) : ∃ v, readReg s n = some v := by
  interval_cases n <;> exact ⟨_, rfl⟩

theorem readReg_none (s : State) {n : Nat} (h : 14 < n) : readReg s n = none := by
  unfold readReg; split <;> first | omega | rfl

/-- SER_RX leaves the transmit side alone (44_environment.md R203). -/
@[simp] theorem Serial.arrive_thr (p : Serial) (b : Byte) : (p.arrive b).thr = p.thr := by
  unfold Serial.arrive; split <;> rfl

@[simp] theorem Serial.arrive_tsr (p : Serial) (b : Byte) : (p.arrive b).tsr = p.tsr := by
  unfold Serial.arrive; split <;> rfl

@[simp] theorem Serial.arrive_tsrDir (p : Serial) (b : Byte) : (p.arrive b).tsrDir = p.tsrDir := by
  unfold Serial.arrive; split <;> rfl

/-- All that the TX part of IRQ_SERIAL can write is the sequencer and the holding register. -/
theorem serveTx_frame (s : State) :
    serveTx s = { s with tx := (serveTx s).tx, ser := { s.ser with thr := (serveTx s).ser.thr } } := by
  rcases serveTx_cases s with ⟨-, e⟩ | ⟨-, -, e⟩ | ⟨-, -, -, e⟩ | ⟨-, -, -, e⟩ <;> rw [e] <;> rfl

/-- All that the RX part of IRQ_SERIAL can write is the ring and `ser.rx_ready`. -/
theorem serveRx_frame (s : State) :
    serveRx s = { s with ring := (serveRx s).ring, ser := { s.ser with rxReady := (serveRx s).ser.rxReady } } := by
  rcases serveRx_cases s with ⟨-, e⟩ | ⟨-, e⟩
  · rw [e]
  · rw [e]; rfl

/-- The TX part of IRQ_SERIAL does not read what the RX part writes (43_controller.md R192). -/
theorem serveTx_rx (s : State) (r : Ring) (b : Bool) :
    serveTx { s with ring := r, ser := { s.ser with rxReady := b } } =
      { serveTx s with ring := r, ser := { (serveTx s).ser with rxReady := b } } := by
  unfold serveTx txStep
  have ready : State.txCondition { s with ring := r, ser := { s.ser with rxReady := b } } = s.txCondition := rfl
  have complete : Serial.txComplete { s.ser with rxReady := b } = s.ser.txComplete := rfl
  simp only [ready, complete]
  split
  · split
    · rfl
    · split <;> rfl
  · rfl

end Sys2Proof.Machine
end

