-- ==== Sys2Proof/Laws/Fetch.lean ====
section
/-! SUPPORT. What the fetch answers, once; a proof about `step` cites these. -/

namespace Sys2Proof.Machine

theorem fetch_illFormed {s : State} (h : ¬ s.cfg.wf) : fetch s = .refused .illFormedConfig := by
  unfold fetch; rw [if_neg h]

theorem fetch_nothing {s : State} (h : s.cfg.wf) (hs : s.schedule = []) : fetch s = .next (none, s) := by
  unfold fetch; rw [if_pos h, hs]

theorem fetch_entry {s : State} (h : s.cfg.wf) {e : Entry} {rest : List Entry} (hs : s.schedule = e :: rest) :
    fetch s = fetchEntry e { s with schedule := rest } := by
  unfold fetch; rw [if_pos h, hs]

theorem fetchEntry_word {w : OpWord} {i : Instr} (s : State) (h : decode w = .ok i) :
    fetchEntry (.word w) s = .next (some i, if i.format = .command then latchOperands s w else s) := by
  simp only [fetchEntry, fetchWord, h]

theorem fetchEntry_malformed {w : OpWord} {op : Byte} (s : State) (h : decode w = .error (.reservedOpcode op)) :
    fetchEntry (.word w) s = .refused (.malformedWord op) := by
  simp only [fetchEntry, fetchWord, h]

theorem fetchEntry_port {w : OpWord} {i : Instr} (s : State) (h : decodeCommand w = some i) :
    fetchEntry (.port w) s = .next (some i, latchOperands s w) := by
  simp only [fetchEntry, fetchPort, h]

theorem fetchEntry_illegal {w : OpWord} (s : State) (h : decodeCommand w = none) :
    fetchEntry (.port w) s = .next (none, respond (latchOperands s w) .illegal 0) := by
  simp only [fetchEntry, fetchPort, h]

/-- The command port's decoder accepts exactly the words that decode to a command (30_encoding.md R97). -/
theorem decodeCommand_some {w : OpWord} {i : Instr} :
    decodeCommand w = some i ↔ decode w = .ok i ∧ i.format = .command := by
  unfold decodeCommand
  cases decode w with
  | error e => simp
  | ok j =>
    by_cases h : j.format = .command <;> simp [h]
    · rintro rfl; exact h
    · rintro rfl; exact h

end Sys2Proof.Machine
end

