-- ==== Sys2Proof/Laws/Memory.lean ====
section
/-! SUPPORT. The byte stores: read after write, and every write keeps the canonical form. -/

namespace Sys2Proof.Machine

@[simp] theorem Memory.lookup_nil (a : Nat) : Memory.lookup [] a = none := rfl

/-- A read after a write to the same key gives the value written. -/
@[simp] theorem Memory.lookup_write_same (m : Memory) (a : Nat) (v : Byte) :
    Memory.lookup (Memory.write m a v) a = some v := by
  induction m with
  | nil => simp [Memory.write, Memory.lookup]
  | cons c m ih =>
    obtain ⟨k, b⟩ := c
    by_cases h1 : a < k
    · simp [Memory.write, Memory.lookup, h1]
    · by_cases h2 : a = k <;> simp [Memory.write, Memory.lookup, h1, h2, ih]

/-- A write leaves every other key alone. -/
theorem Memory.lookup_write_of_ne (m : Memory) {a a' : Nat} (v : Byte) (h : a' ≠ a) :
    Memory.lookup (Memory.write m a v) a' = Memory.lookup m a' := by
  induction m with
  | nil => simp [Memory.write, Memory.lookup, h]
  | cons c m ih =>
    obtain ⟨k, b⟩ := c
    by_cases h1 : a < k
    · simp [Memory.write, Memory.lookup, h1, h]
    · by_cases h2 : a = k
      · subst h2; simp [Memory.write, Memory.lookup, h]
      · simp [Memory.write, Memory.lookup, h1, h2, ih]

theorem Memory.lookup_write (m : Memory) (a a' : Nat) (v : Byte) :
    Memory.lookup (Memory.write m a v) a' = if a' = a then some v else Memory.lookup m a' := by
  by_cases h : a' = a
  · subst h; simp
  · simp [h, Memory.lookup_write_of_ne m v h]

theorem Memory.wf_nil (bound : Nat) : Memory.wf bound [] := by simp [Memory.wf]

/-- The keys of a written store are the old ones and the written one. -/
theorem Memory.mem_write {m : Memory} {a : Nat} {v : Byte} {c : Host.Cell} (h : c ∈ Memory.write m a v) :
    c = (a, v) ∨ c ∈ m := by
  induction m with
  | nil => simpa [Memory.write] using h
  | cons d m ih =>
    obtain ⟨k, b⟩ := d
    by_cases h1 : a < k
    · simpa [Memory.write, h1] using h
    · by_cases h2 : a = k
      · subst h2
        have : c = (a, v) ∨ c ∈ m := by simpa [Memory.write] using h
        exact this.imp_right (List.mem_cons_of_mem _)
      · have : c = (k, b) ∨ c ∈ Memory.write m a v := by simpa [Memory.write, h1, h2] using h
        rcases this with h | h
        · exact .inr (by simp [h])
        · exact (ih h).imp_right (List.mem_cons_of_mem _)

/-- Every write keeps the canonical form. -/
theorem Memory.write_wf {bound : Nat} {m : Memory} {a : Nat} (v : Byte) (hm : Memory.wf bound m) (ha : a < bound) :
    Memory.wf bound (Memory.write m a v) := by
  refine ⟨?_, fun c hc => ?_⟩
  · have hs := hm.1
    clear hm
    induction m with
    | nil => simp [Memory.write]
    | cons d m ih =>
      obtain ⟨k, b⟩ := d
      obtain ⟨hk, hp⟩ := List.pairwise_cons.mp hs
      by_cases h1 : a < k
      · simp only [Memory.write, h1, if_true, List.pairwise_cons]
        refine ⟨fun c hc => ?_, hk, hp⟩
        rcases List.mem_cons.mp hc with rfl | hc
        · exact h1
        · exact h1.trans (hk c hc)
      · by_cases h2 : a = k
        · subst h2
          simp only [Memory.write, lt_irrefl, if_false, if_true, List.pairwise_cons]
          exact ⟨hk, hp⟩
        · simp only [Memory.write, h1, h2, if_false, List.pairwise_cons]
          refine ⟨fun c hc => ?_, ih hp⟩
          rcases Memory.mem_write hc with rfl | hc
          · exact lt_of_le_of_ne (not_lt.mp h1) (Ne.symm h2)
          · exact hk c hc
  · rcases Memory.mem_write hc with rfl | hc
    · exact ha
    · exact hm.2 c hc

/-- Application memory: a read after a write (20_memory.md R63). -/
theorem memRead_memWrite (s : State) (addr a : Word) (v : Byte) :
    memRead (memWrite s addr v) a = if a = addr then v else memRead s a := by
  by_cases h : a = addr
  · subst h; simp [memRead]
  · have : a.toNat ≠ addr.toNat := fun e => h (BitVec.eq_of_toNat_eq e)
    simp [memRead, h, Memory.lookup_write_of_ne _ _ this]

/-- Application memory is read from `mem` alone. -/
theorem memRead_congr {s t : State} (h : t.mem = s.mem) (a : Word) : memRead t a = memRead s a := by
  simp [memRead, h]

end Sys2Proof.Machine
end

