-- ==== Sys2Proof/Laws/Invariant.lean ====
section
/-! SUPPORT. The invariant and the parts of a step that are no operation: the response, the schedule and the
operand latches. -/

namespace Sys2Proof.Machine

theorem Inv.respond {s : State} (h : s.Inv) {st : Status} {d : Word} (hd : st ≠ .ok → d = 0) :
    (respond s st d).Inv :=
  { config := h.config
    ring := ⟨h.ring.1, h.ring.2, h.ring.3, h.ring.4, h.ring.5, h.ring.6⟩
    tx := ⟨h.tx.1, h.tx.2, h.tx.3, h.tx.4, h.tx.5, h.tx.6, h.tx.7, h.tx.8, h.tx.9, h.tx.10, h.tx.11⟩
    control := ⟨h.control.1, h.control.2, h.control.3,
      fun hi => by have := h.control.4 hi; unfold State.asAfterReset at *; rw [this]; rfl, ⟨st, rfl, hd⟩, h.control.6⟩
    counter := h.counter
    memory := h.memory }

theorem Inv.withSchedule {s : State} (h : s.Inv) (r : List Entry) : State.Inv { s with schedule := r } :=
  { config := h.config
    ring := ⟨h.ring.1, h.ring.2, h.ring.3, h.ring.4, h.ring.5, h.ring.6⟩
    tx := ⟨h.tx.1, h.tx.2, h.tx.3, h.tx.4, h.tx.5, h.tx.6, h.tx.7, h.tx.8, h.tx.9, h.tx.10, h.tx.11⟩
    control := ⟨h.control.1, h.control.2, h.control.3,
      fun hi => by have := h.control.4 hi; unfold State.asAfterReset at *; rw [this]; rfl, h.control.5, h.control.6⟩
    counter := h.counter
    memory := h.memory }

theorem Inv.latchOperands {s : State} (h : s.Inv) (w : OpWord) : (latchOperands s w).Inv :=
  { config := h.config
    ring := ⟨h.ring.1, h.ring.2, h.ring.3, h.ring.4, h.ring.5, h.ring.6⟩
    tx := ⟨h.tx.1, h.tx.2, h.tx.3, h.tx.4, h.tx.5, h.tx.6, h.tx.7, h.tx.8, h.tx.9, h.tx.10, h.tx.11⟩
    control := ⟨h.control.1, h.control.2, h.control.3,
      fun hi => by have := h.control.4 hi; unfold State.asAfterReset at *; rw [Machine.latchOperands, this]; rfl,
      h.control.5, h.control.6⟩
    counter := h.counter
    memory := h.memory }

/-- In a state that meets the invariant the enable and the pin follow the sequencer (70_reset_and_hazards.md
R272). -/
theorem Inv.busy {s : State} (h : s.Inv) (hs : s.tx.state ≠ .idle) : s.tx.ie = true ∧ s.tx.dir = .transmit := by
  constructor
  · cases hi : s.tx.ie with
    | true => rfl
    | false => exact absurd (h.tx.idleIffDisabled.mpr hi) hs
  · cases hd : s.tx.dir with
    | transmit => rfl
    | receive => exact absurd (h.tx.idleIffReceive.mpr hd) hs

end Sys2Proof.Machine
end

