-- ==== Sys2Proof/Laws/PerInstr.lean ====
section
/-! SUPPORT. Statements for every operation as syntax, one lemma per constructor. Family `Fields`: the
encoding carries the operation's opcode, and no bit the operation does not read. -/

namespace Sys2Proof.Laws.Fields

/-- The opcode field of the encoding is the operation's row of 30_encoding.md R92, and the ignored fields
are written as 0 (R98). -/
def Statement (i : Instr) : Prop :=
  opcodeOf (encode i) = i.opcode ∧ encode i &&& i.usedBits = encode i

/-- A mask of whole fields acts field by field. -/
theorem packWord_and (o o' : Byte) (a a' b b' : Word) :
    packWord o a b &&& packWord o' a' b' = packWord (o &&& o') (a &&& a') (b &&& b') := by
  apply BitVec.eq_of_getLsbD_eq
  intro i hi
  simp only [packWord, BitVec.getLsbD_and, BitVec.getLsbD_append]
  by_cases h1 : i < 32
  · simp [h1]
  · by_cases h2 : i - 32 < 32 <;> simp [h1, h2]

/-- The mask of a byte operand keeps the byte. -/
theorem setWidth_and_byte (b : Byte) : b.setWidth 32 &&& 255#32 = b.setWidth 32 := by
  apply BitVec.eq_of_getLsbD_eq
  intro i hi
  have hm : ∀ j < 8, (255#32).getLsbD j = true := by decide
  simp only [BitVec.getLsbD_and, BitVec.getLsbD_setWidth]
  by_cases h : i < 8
  · rw [hm i h, Bool.and_true]
  · simp [BitVec.getLsbD_of_ge b i (by omega)]

/-- The mask of a whole operand keeps it. -/
theorem and_ones (a : Word) : a &&& 4294967295#32 = a := BitVec.and_allOnes

theorem init (n t : Word) : Statement (.init n t) := by
  simp [Statement, encode, Instr.opcode, Instr.usedBits, packWord_and, and_ones]
theorem pop : Statement .pop := by simp [Statement, encode, Instr.opcode, Instr.usedBits, packWord_and]
theorem len : Statement .len := by simp [Statement, encode, Instr.opcode, Instr.usedBits, packWord_and]
theorem transmit (p l : Word) : Statement (.transmit p l) := by
  simp [Statement, encode, Instr.opcode, Instr.usedBits, packWord_and, and_ones]
theorem now : Statement .now := by simp [Statement, encode, Instr.opcode, Instr.usedBits, packWord_and]
theorem poll : Statement .poll := by simp [Statement, encode, Instr.opcode, Instr.usedBits, packWord_and]
theorem rdreg (n : Word) : Statement (.rdreg n) := by
  simp [Statement, encode, Instr.opcode, Instr.usedBits, packWord_and, and_ones]
theorem irqSerial : Statement .irqSerial := by
  simp [Statement, encode, Instr.opcode, Instr.usedBits, packWord_and]
theorem irqTimer : Statement .irqTimer := by
  simp [Statement, encode, Instr.opcode, Instr.usedBits, packWord_and]
theorem tmrTick : Statement .tmrTick := by
  simp [Statement, encode, Instr.opcode, Instr.usedBits, packWord_and]
theorem serRx (b : Byte) : Statement (.serRx b) := by
  simp [Statement, encode, Instr.opcode, Instr.usedBits, packWord_and, setWidth_and_byte]
theorem serLoad : Statement .serLoad := by
  simp [Statement, encode, Instr.opcode, Instr.usedBits, packWord_and]
theorem serDone : Statement .serDone := by
  simp [Statement, encode, Instr.opcode, Instr.usedBits, packWord_and]
theorem memWr (a : Word) (v : Byte) : Statement (.memWr a v) := by
  simp [Statement, encode, Instr.opcode, Instr.usedBits, packWord_and, and_ones, setWidth_and_byte]

end Sys2Proof.Laws.Fields
end

