-- ==== Sys2Proof/Laws/Ring.lean ====
section
/-! SUPPORT. The ring's index arithmetic and its two operations. -/

namespace Sys2Proof.Machine

theorem adv_fst (c i : Nat) (lap : Bool) : (adv c i lap).1 = if i = c - 1 then 0 else i + 1 := by
  unfold adv; split <;> rfl

theorem adv_snd (c i : Nat) (lap : Bool) : (adv c i lap).2 = if i = c - 1 then !lap else lap := by
  unfold adv; split <;> rfl

/-- Advancing keeps an index in range (70_reset_and_hazards.md R270). -/
theorem adv_lt {c i : Nat} (lap : Bool) (h : i < c) : (adv c i lap).1 < c := by
  rw [adv_fst]; split <;> omega

/-- The index arithmetic of 20_memory.md R61: `next(i) = (i + 1) mod CAPACITY`. -/
theorem adv_fst_mod {c i : Nat} (lap : Bool) (h : i < c) : (adv c i lap).1 = (i + 1) % c := by
  rw [adv_fst]
  split
  · next e => rw [e, Nat.sub_add_cancel (by omega), Nat.mod_self]
  · rw [Nat.mod_eq_of_lt (by omega)]

/-- `occ()` of an in-range ring without the remainder (41_ring.md R149). -/
theorem Ring.occ_of_lt {c : Nat} {r : Ring} (hh : r.head < c) (ht : r.tail < c) :
    r.occ c = if r.head = r.tail then (if r.headLap = r.tailLap then 0 else c)
      else if r.tail ≤ r.head then r.head - r.tail else r.head + c - r.tail := by
  unfold Ring.occ
  split
  · rfl
  · split
    · rw [Int.emod_eq_of_lt (by omega) (by omega)]; omega
    · rw [← Int.add_emod_right, Int.emod_eq_of_lt (by omega) (by omega)]; omega

theorem Ring.isEmpty_iff (r : Ring) : r.isEmpty = true ↔ r.head = r.tail ∧ r.headLap = r.tailLap := by
  simp [Ring.isEmpty]

theorem Ring.isFull_iff (r : Ring) : r.isFull = true ↔ r.head = r.tail ∧ r.headLap ≠ r.tailLap := by
  simp [Ring.isFull]

/-- PUSH either drops the byte or stores it: nothing else (41_ring.md R142). -/
theorem Ring.push_cases (c : Nat) (r : Ring) (b : Byte) :
    (r.isFull = true ∧ r.push c b = r.drop) ∨ (r.isFull = false ∧ r.push c b = r.accept c b) := by
  unfold Ring.push
  cases r.isFull <;> simp

/-- PUSH leaves the consumer's index and lap bit alone (41_ring.md R142). -/
@[simp] theorem Ring.push_tail (c : Nat) (r : Ring) (b : Byte) : (r.push c b).tail = r.tail := by
  rcases Ring.push_cases c r b with ⟨-, h⟩ | ⟨-, h⟩ <;> simp [h]

@[simp] theorem Ring.push_tailLap (c : Nat) (r : Ring) (b : Byte) : (r.push c b).tailLap = r.tailLap := by
  rcases Ring.push_cases c r b with ⟨-, h⟩ | ⟨-, h⟩ <;> simp [h]

end Sys2Proof.Machine
end

