-- ==== Sys2Proof/Laws/Run.lean ====
section
/-! SUPPORT. Finite runs, one operation at a time. -/

namespace Sys2Proof.Machine

@[simp] theorem runOps_nil (s : State) : runOps [] s = .next s := rfl

theorem runOps_cons {i : Instr} {ops : List Instr} {s t : State} :
    runOps (i :: ops) s = .next t ↔ ∃ u, exec i s = .next u ∧ runOps ops u = .next t := by
  simp only [runOps]
  cases h : exec i s <;> simp

/-- What an observer collects from a run that starts with an operation that occurs. -/
theorem observe_cons {α : Type} {f : Instr → State → State → List α} {i : Instr} {ops : List Instr} {s u : State}
    (h : exec i s = .next u) : observe f (i :: ops) s = f i s u ++ observe f ops u := by
  simp only [observe, h]

/-- What an observer collects from a run with one operation more at its end. -/
theorem observe_snoc {α : Type} {f : Instr → State → State → List α} {i : Instr} {ops : List Instr} {s t u : State}
    (h : runOps ops s = .next t) (hi : exec i t = .next u) :
    observe f (ops ++ [i]) s = observe f ops s ++ f i t u := by
  induction ops generalizing s with
  | nil => cases h; rw [List.nil_append, observe_cons hi]; simp [observe]
  | cons j ops ih =>
    obtain ⟨v, hv, hr⟩ := runOps_cons.mp h
    rw [List.cons_append, observe_cons hv, observe_cons hv, ih hr, List.append_assoc]

/-- A property that every operation keeps holds at the end of every run. -/
theorem runOps_induct {P : State → Prop} (keep : ∀ (i : Instr) (s t : State), P s → exec i s = .next t → P t)
    {ops : List Instr} {s t : State} (hs : P s) (h : runOps ops s = .next t) : P t := by
  induction ops generalizing s with
  | nil => cases h; exact hs
  | cons i ops ih => obtain ⟨u, hu, hr⟩ := runOps_cons.mp h; exact ih (keep i s u hs hu) hr

end Sys2Proof.Machine
end

