-- ==== Sys2Proof/Tests/Slice0.lean ====
section
/-! SUPPORT. The model's own tests. Expected results are the vectors of 95_test_vectors.md, named V<n> there, or
hand calculation from the rule named. The last part gives a witness for every obligation with hypotheses. -/

namespace Sys2Proof.Tests

open Sys2Proof Sys2Proof.Machine

/-! ### Helpers -/

/-- The step answers a next state with the property. -/
def holds (o : Result) (p : State → Bool) : Bool :=
  match o with
  | .next t => p t
  | .fault _ => false
  | .refused _ => false

/-- The step stops with the fault. -/
def stopsWith (o : Result) (f : Fault) : Bool :=
  match o with
  | .next _ => false
  | .fault g => g == f
  | .refused _ => false

/-- The response `(status, data)` of a state. -/
def answers (t : State) (status : Byte) (data : Word) : Bool := t.port.rspStatus == status && t.port.rspData == data

/-- The state after `INIT 0x11, 0x0A` (V41). -/
def live : State :=
  { State.reset with
    ctl := { initialized := true, nodeId := 0x11, timeoutMs := 0x0A, rxIe := true, ovfIe := true, tmrRun := true }
    peLog := [.peInit 0x11] }

/-- `live` with a ring of the given capacity, contents and indices. -/
def withRing (capacity : Nat) (slots : Memory) (head : Nat) (headLap : Bool) (tail : Nat) (tailLap : Bool) : State :=
  { live with
    cfg := { live.cfg with capacity := capacity }
    ring := { live.ring with slots := slots, head := head, headLap := headLap, tail := tail, tailLap := tailLap } }

/-- The full ring of V11 and V12. -/
def full : State := withRing 4 [(0, 0x50), (1, 0x60), (2, 0x30), (3, 0x40)] 2 true 2 false

/-- A session of V30: one byte `0x7E` at `0x20000100`. -/
def session (state : TxState) (cursor : Word) (thr tsr : Option Byte) : State :=
  { live with
    mem := [(0x20000100, 0x7E)]
    tx := { live.tx with state := state, ptr := 0x20000100, len := 1, cursor := cursor, ie := true, dir := .transmit }
    ser := { live.ser with thr := thr, tsr := tsr, tsrDir := if tsr.isSome then .transmit else .receive } }

/-- `live` with its counter and clock set. -/
def withClock (acc : Word) (cnt : Nat) (ovf : Bool) : State :=
  { live with accMs := acc, tmr := { cnt := cnt, ovf := ovf, ovfLost := false } }

/-- `live` with a received byte waiting. -/
def waiting (s : State) (b : Byte) : State := { s with ser := { s.ser with rdr := b, rxReady := true } }

/-- The invariant of an initialised state, in four parts that can be decided. -/
abbrev storeCheck (s : State) : Prop :=
  s.cfg.wf ∧ s.tmr.cnt < s.cfg.counterModulus ∧ Memory.wf (2 ^ 32) s.mem ∧ Memory.wf s.cfg.capacity s.ring.slots

abbrev ringCheck (s : State) : Prop :=
  s.ring.head < s.cfg.capacity ∧ s.ring.tail < s.cfg.capacity ∧
  (s.ring.tail < s.ring.head → s.ring.headLap = s.ring.tailLap) ∧
  (s.ring.head < s.ring.tail → s.ring.headLap ≠ s.ring.tailLap) ∧ (s.ring.overrun = false → s.ring.overrunCnt = 0)

abbrev txCheck (s : State) : Prop :=
  (s.tx.state = .idle ↔ s.tx.ie = false) ∧ (s.tx.state = .idle ↔ s.tx.dir = .receive) ∧ s.tx.cursor ≤ s.tx.len ∧
  (s.tx.state = .filling → s.tx.cursor < s.tx.len ∨ s.tx.len = 0) ∧
  (s.tx.state = .draining → s.tx.cursor = s.tx.len) ∧ (s.tx.busyErr = false → s.tx.busyCnt = 0)

abbrev serCheck (s : State) : Prop :=
  (s.tx.state = .idle → s.ser.thr.isNone ∧ s.ser.tsr.isNone) ∧
  (s.tx.state = .filling → s.tx.cursor = 0 → s.ser.thr.isNone ∧ s.ser.tsr.isNone) ∧
  (s.ser.thr.isSome ∨ s.ser.tsr.isSome → s.tx.dir = .transmit) ∧ (s.ser.tsr.isSome → s.ser.tsrDir = .transmit)

abbrev ctlCheck (s : State) : Prop :=
  s.ctl.initialized = true ∧ s.ctl.rxIe = true ∧ s.ctl.ovfIe = true ∧ s.ctl.tmrRun = true ∧
  s.port.rspStatus = 0x00 ∧ s.peLog = [.peInit s.ctl.nodeId] ∧ s.wire = []

theorem liveCheck_inv {s : State} (hs : storeCheck s) (hr : ringCheck s) (ht : txCheck s) (hp : serCheck s)
    (hc : ctlCheck s) : s.Inv := by
  obtain ⟨c, n, m, r5⟩ := hs
  obtain ⟨r1, r2, r3, r4, r6⟩ := hr
  obtain ⟨t1, t2, t3, t4, t5, t11⟩ := ht
  obtain ⟨t6, t7, t8, t9⟩ := hp
  obtain ⟨i1, i2, i3, i4, i5, i6, t10⟩ := hc
  simp only [Option.isNone_iff_eq_none, Option.isSome_iff_ne_none] at t6 t7 t8 t9
  exact
    { config := c
      ring := ⟨r1, r2, r3, r4, r5, r6⟩
      tx := ⟨t1, t2, t3, t4, t5, t6, t7, t8, t9, by simp [t10], t11⟩
      control := ⟨i2.trans i1.symm, i3.trans i1.symm, i4.trans i1.symm, fun h => by simp [i1] at h,
        ⟨.ok, i5, fun h => absurd rfl h⟩, fun _ => ⟨[], i6, by simp⟩⟩
      counter := n
      memory := m }

theorem live_inv : live.Inv := liveCheck_inv (by decide) (by decide) (by decide) (by decide) (by decide)

theorem full_inv : full.Inv := liveCheck_inv (by decide) (by decide) (by decide) (by decide) (by decide)

theorem filling_inv : (session .filling 0 none none).Inv := liveCheck_inv (by decide) (by decide) (by decide) (by decide) (by decide)

theorem draining_inv : (session .draining 1 none (some 0x7E)).Inv := liveCheck_inv (by decide) (by decide) (by decide) (by decide) (by decide)

theorem drained_inv : (session .draining 1 none none).Inv := liveCheck_inv (by decide) (by decide) (by decide) (by decide) (by decide)

theorem reset_inv : State.reset.Inv where
  config := by decide
  ring := ⟨by decide, by decide, by decide, by decide, by decide, by decide⟩
  tx := ⟨by decide, by decide, by decide, by decide, by decide, fun _ => ⟨rfl, rfl⟩, fun _ _ => ⟨rfl, rfl⟩,
    by simp [State.reset, State.resetWith], fun h => absurd rfl h, fun _ h => (by cases h), fun _ => rfl⟩
  control := ⟨rfl, rfl, rfl, fun _ => rfl, ⟨.ok, rfl, fun h => absurd rfl h⟩, fun h => by cases h⟩
  counter := by decide
  memory := by decide

/-! ### Well-formedness (00_scope.md R6 to R9): one ill-formed configuration for each check -/

theorem test_wf_reference : Config.reference.wf := by decide

theorem test_wf_least : Config.wf ⟨1, 1, 1, 1, 0⟩ := by decide

theorem test_wf_capacity_zero : ¬ Config.capacityOk ⟨0, 1024, 16, 64, 0⟩ := by decide

theorem test_wf_capacity_too_large : ¬ Config.capacityOk ⟨2 ^ 32, 1024, 16, 64, 0⟩ := by decide

theorem test_wf_modulus_zero : ¬ Config.modulusOk ⟨16, 0, 16, 64, 0⟩ := by decide

theorem test_wf_modulus_too_large : ¬ Config.modulusOk ⟨16, 2 ^ 32 + 1, 1, 2 ^ 32 + 1, 0⟩ := by decide

theorem test_wf_ticks_zero : ¬ Config.ticksOk ⟨16, 1024, 0, 64, 0⟩ := by decide

theorem test_wf_period_zero : ¬ Config.periodOk ⟨16, 1024, 16, 0, 0⟩ := by decide

theorem test_wf_period_too_large : ¬ Config.periodOk ⟨16, 2 ^ 32, 1, 2 ^ 32, 0⟩ := by decide

theorem test_wf_period_not_exact : ¬ Config.exactPeriod ⟨16, 1000, 16, 64, 0⟩ := by decide

theorem test_wf_refused : ¬ Config.wf ⟨16, 1000, 16, 64, 0⟩ ∧ ¬ Config.wf ⟨0, 1024, 16, 64, 0⟩ := by decide

/-! ### Decoding (V2, V3, V4): one written-out word for every operation -/

theorem test_decode_init : decode 0x01_00000011_0000000A#72 = .ok (.init 0x11 0x0A) := by decide

theorem test_decode_pop : decode 0x02_DEADBEEF_12345678#72 = .ok .pop := by decide

theorem test_decode_len : decode 0x03_00000000_00000000#72 = .ok .len := by decide

theorem test_decode_transmit : decode 0x04_20000100_00000003#72 = .ok (.transmit 0x20000100 3) := by decide

theorem test_decode_now : decode 0x05_00000000_00000000#72 = .ok .now := by decide

theorem test_decode_poll : decode 0x06_00000000_00000000#72 = .ok .poll := by decide

theorem test_decode_rdreg : decode 0x07_00000003_FFFFFFFF#72 = .ok (.rdreg 0x03) := by decide

theorem test_decode_irqSerial : decode 0x80_00000000_00000000#72 = .ok .irqSerial := by decide

theorem test_decode_irqTimer : decode 0x81_00000000_00000000#72 = .ok .irqTimer := by decide

theorem test_decode_tmrTick : decode 0x90_00000000_00000000#72 = .ok .tmrTick := by decide

theorem test_decode_serRx : decode 0x91_00000000_0000AB41#72 = .ok (.serRx 0x41) := by decide

theorem test_decode_serLoad : decode 0x92_00000000_00000000#72 = .ok .serLoad := by decide

theorem test_decode_serDone : decode 0x93_00000000_00000000#72 = .ok .serDone := by decide

theorem test_decode_memWr : decode 0x94_FFFFFFFF_00000100#72 = .ok (.memWr 0xFFFFFFFF 0x00) := by decide

theorem test_decode_reserved :
    decode 0x00_00000000_00000000#72 = .error (.reservedOpcode 0x00) ∧
    decode 0x08_00000000_00000000#72 = .error (.reservedOpcode 0x08) ∧
    decode 0x7F_00000000_00000000#72 = .error (.reservedOpcode 0x7F) ∧
    decode 0x95_00000000_00000000#72 = .error (.reservedOpcode 0x95) ∧
    decode 0xFF_FFFFFFFF_FFFFFFFF#72 = .error (.reservedOpcode 0xFF) := by decide

theorem test_command_port_refuses_events :
    decodeCommand 0x80_00000000_00000000#72 = none ∧ decodeCommand 0x94_20000100_000000A1#72 = none ∧
    decodeCommand 0x06_00000000_00000000#72 = some .poll := by decide

theorem test_encode :
    encode (.transmit 0x20000100 3) = 0x04_20000100_00000003#72 ∧ encode (.serRx 0x41) = 0x91_00000000_00000041#72 ∧
    encode (.memWr 0x20000100 0xA1) = 0x94_20000100_000000A1#72 := by decide

theorem test_decodeTableWord : decodeTableWord 72 0x07_0000000D_00000000 = some (.rdreg 0x0D) := by decide

/-- V5. -/
theorem test_response_words :
    (respond live .ok 16).response = 0x00_00000010#40 ∧ (respond live .empty 0).response = 0x01_00000000#40 ∧
    (respond live .busy 0).response = 0x02_00000000#40 ∧ (respond live .notInit 0).response = 0x03_00000000#40 ∧
    (respond live .illegal 0).response = 0x04_00000000#40 ∧ (respond live .badReg 0).response = 0x05_00000000#40 ∧
    (respond live .alreadyInit 0).response = 0x06_00000000#40 := by decide

/-! ### A step (V41, V4) -/

theorem test_step_runs_word :
    holds (step (State.reset.withFetchWord 72 0x01_00000011_0000000A)) fun t =>
      t.statusReg == 0x000000E1 && answers t 0x00 0 && t.port.arg0 == 0x11 && t.port.arg1 == 0x0A && t.schedule == []
      := by decide

theorem test_step_illegal_port_word :
    holds (step { State.reset with schedule := [.port 0x80_00000000_00000000#72] }) fun t =>
      answers t 0x04 0 && t.statusReg == 0 := by decide

/-! ### One step of each operation -/

/-- V41. -/
theorem test_init : exec (.init 0x11 0x0A) State.reset = .next live := rfl

/-- V41. -/
theorem test_init_second :
    holds (exec (.init 0x22 0x14) live) fun t => answers t 0x06 0 && t.ctl.nodeId == 0x11 && t.peLog == [.peInit 0x11]
      := by decide

/-- V11: the pop of `0x40` wraps `tail` and complements its lap bit. -/
theorem test_pop_wraps :
    holds (exec .pop (withRing 4 [(0, 0x50), (1, 0x60), (2, 0x30), (3, 0x40)] 2 true 3 false)) fun t =>
      answers t 0x00 0x40 && t.ring.tail == 0 && t.ring.tailLap && t.ring.head == 2 && t.ring.headLap := by decide

/-- V17: no sign extension. -/
theorem test_pop_zero_extends :
    holds (exec .pop (withRing 4 [(2, 0x80)] 3 false 2 false)) fun t => answers t 0x00 0x00000080 := by decide

/-- V12. -/
theorem test_len_full : holds (exec .len full) fun t => answers t 0x00 4 := by decide

/-- V1. -/
theorem test_len_wrapped : holds (exec .len (withRing 16 [] 0 true 1 false)) fun t => answers t 0x00 15 := by decide

/-- V30. -/
theorem test_transmit :
    holds (exec (.transmit 0x20000100 1) live) fun t =>
      answers t 0x00 0 && t.statusReg == 0x000000F7 && t.periphReg == 0x00000016 && t.ser.thr == none := by decide

/-- V34, V37. -/
theorem test_transmit_busy :
    holds (exec (.transmit 0x20000200 1) { session .filling 0 none none with
      tx := { (session .filling 0 none none).tx with busyCnt := 0xFFFFFFFF } }) fun t =>
      answers t 0x02 0 && t.tx.busyCnt == 0 && t.tx.busyErr && t.tx.ptr == 0x20000100 && t.tx.len == 1 := by decide

/-- V20. -/
theorem test_now_clk :
    clk Config.reference 0 false 15 = 0 ∧ clk Config.reference 0 false 16 = 1 ∧
    clk Config.reference 0 false 1023 = 63 ∧ clk Config.reference 0 true 0 = 64 ∧
    clk Config.reference 128 true 3 = 192 ∧ clk Config.reference 192 false 500 = 223 ∧
    clk Config.reference 0xFFFFFFC0 false 1023 = 0xFFFFFFFF ∧ clk Config.reference 0xFFFFFFC0 true 0 = 0 ∧
    clk Config.reference 0xFFFFFFC0 true 16 = 1 := by decide

/-- V21. -/
theorem test_now : holds (exec .now (withClock 192 500 false)) fun t => answers t 0x00 223 := by decide

/-- V42. -/
theorem test_poll :
    holds (exec .poll live) fun t => answers t 0x00 0 && t.peLog == [.peInit 0x11, .peUpdate] := by decide

/-- V43. -/
theorem test_rdreg_periph :
    holds (exec (.rdreg 0x0D) (waiting live 0x41)) fun t => answers t 0x00 0x00000017 && t.ser.rxReady := by decide

/-- V40. -/
theorem test_rdreg_bad :
    (holds (exec (.rdreg 0x0F) State.reset) fun t => answers t 0x05 0) ∧
    (holds (exec (.rdreg 0x100) State.reset) fun t => answers t 0x05 0) ∧
    (holds (exec (.rdreg 0x04) State.reset) fun t => answers t 0x00 0x10) := by decide

/-- V44: one activation serves both conditions. -/
theorem test_irqSerial_both :
    holds (exec .irqSerial (waiting (session .filling 0 none none) 0x33)) fun t =>
      t.ring.slots == [(0, 0x33)] && t.ring.head == 1 && !t.ser.rxReady && t.ser.thr == some 0x7E &&
      t.tx.cursor == 1 && t.tx.state == .draining := by decide

/-- V12: the newest byte is dropped and counted. -/
theorem test_irqSerial_overrun :
    holds (exec .irqSerial (waiting full 0x70)) fun t =>
      t.ring.slots == full.ring.slots && t.ring.head == 2 && t.ring.headLap && t.ring.overrunCnt == 1 &&
      t.ring.overrun && !t.ser.rxReady && !t.ser.rxLost := by decide

/-- V24. -/
theorem test_irqTimer :
    holds (exec .irqTimer (withClock 128 3 true)) fun t =>
      t.accMs == 192 && !t.tmr.ovf && t.tmr.cnt == 3 && stopsWith (exec .irqTimer t) .irqTimerNotEnabled := by decide

/-- V23. -/
theorem test_tmrTick_wraps :
    holds (exec .tmrTick (withClock 0 1023 false)) fun t =>
      t.tmr.cnt == 0 && t.tmr.ovf && !t.tmr.ovfLost && t.elapsed == 64 && t.periphReg == 0x0000002E := by decide

/-- V27. -/
theorem test_tmrTick_overflow_lost :
    holds (exec .tmrTick (withClock 0 1023 true)) fun t => t.tmr.ovfLost && t.tmr.ovf && t.elapsed == 64 := by decide

/-- V46. -/
theorem test_serRx_lost :
    holds (exec (.serRx 0x02) (waiting live 0x01)) fun t => t.ser.rdr == 0x01 && t.ser.rxLost && !t.noFault := by decide

/-- V40. -/
theorem test_serRx_before_init : stopsWith (exec (.serRx 0x01) State.reset) .serRxNotEnabled := by decide

/-- V30. -/
theorem test_serLoad :
    holds (exec .serLoad (session .draining 1 (some 0x7E) none)) fun t =>
      t.ser.tsr == some 0x7E && t.ser.tsrDir == .transmit && t.ser.thr == none && t.periphReg == 0x00000012 := by decide

/-- V30. -/
theorem test_serDone :
    holds (exec .serDone (session .draining 1 none (some 0x7E))) fun t =>
      t.wire == [(0x7E, true)] && t.ser.tsr == none && t.periphReg == 0x00000016 := by decide

/-- 44_environment.md R206: the pin at Receive when the byte was loaded. -/
theorem test_serDone_not_intact :
    holds (exec .serDone { live with ser := { live.ser with tsr := some 0x7E } }) fun t => t.wire == [(0x7E, false)]
      := by decide

/-- V32: the two ends of the address space. -/
theorem test_memWr :
    holds (exec (.memWr 0xFFFFFFFF 0x11) { live with mem := [(0, 0x22)] }) fun t =>
      t.mem == [(0, 0x22), (0xFFFFFFFF, 0x11)] && memRead t 0xFFFFFFFF == 0x11 && memRead t (0xFFFFFFFF + 1) == 0x22
      := by decide

/-! ### Witnesses: a concrete input that meets the hypotheses of each obligation, clause by clause -/

theorem witness_DecodedWordIsEncodingOnUsedBits : decode 0x07_00000003_FFFFFFFF#72 = .ok (.rdreg 0x03) := by decide

theorem witness_OpcodeMapIsComplete :
    decode 0x94_00000000_00000000#72 = .ok (.memWr 0 0) ∧ decode 0x95_00000000_00000000#72 = .error (.reservedOpcode 0x95)
      := by decide

theorem witness_IgnoredFieldsDoNotMatter :
    (opcodeOf 0x02_DEADBEEF_12345678#72 = opcodeOf 0x02_00000000_00000000#72 ∧
      opcodeOf 0x02_DEADBEEF_12345678#72 ∈ [0x02, 0x03, 0x05, (0x06 : Byte)]) ∧
    (opcodeOf 0x07_00000003_FFFFFFFF#72 = 0x07 ∧ arg0Of 0x07_00000003_FFFFFFFF#72 = arg0Of 0x07_00000003_00000000#72) ∧
    (opcodeOf 0x93_00000001_00000000#72 = opcodeOf 0x93_00000000_00000000#72 ∧
      opcodeOf 0x93_00000001_00000000#72 ∈ [0x80, 0x81, 0x90, 0x92, (0x93 : Byte)]) ∧
    (opcodeOf 0x91_00000000_0000AB41#72 = 0x91 ∧
      (arg1Of 0x91_00000000_0000AB41#72).setWidth 8 = (arg1Of 0x91_FFFFFFFF_00000041#72).setWidth 8) ∧
    (opcodeOf 0x94_FFFFFFFF_00000100#72 = 0x94 ∧ arg0Of 0x94_FFFFFFFF_00000100#72 = arg0Of 0x94_FFFFFFFF_00000000#72 ∧
      (arg1Of 0x94_FFFFFFFF_00000100#72).setWidth 8 = (arg1Of 0x94_FFFFFFFF_00000000#72).setWidth 8) := by decide

/-- `live` or `reset` with one entry scheduled. -/
def scheduled (s : State) (e : Entry) : State := { s with schedule := [e] }

theorem witness_IllegalWordsAnswerIllegal :
    (scheduled State.reset (.port 0x08_00000000_00000000#72)).cfg.wf ∧
    (scheduled State.reset (.port 0x08_00000000_00000000#72)).schedule = [.port 0x08_00000000_00000000#72] ∧
    (opcodeOf 0x00_00000000_00000000#72 ∉ [0x01, 0x02, 0x03, 0x04, 0x05, 0x06, (0x07 : Byte)] ∧
      opcodeOf 0x08_00000000_00000000#72 ∉ [0x01, 0x02, 0x03, 0x04, 0x05, 0x06, (0x07 : Byte)] ∧
      opcodeOf 0xFF_FFFFFFFF_FFFFFFFF#72 ∉ [0x01, 0x02, 0x03, 0x04, 0x05, 0x06, (0x07 : Byte)]) ∧
    (scheduled live (.word 0x95_00000000_00000000#72)).schedule = [.word 0x95_00000000_00000000#72] ∧
    opcodeOf 0x95_00000000_00000000#72 ∉
      [0x01, 0x02, 0x03, 0x04, 0x05, 0x06, 0x07, 0x80, 0x81, 0x90, 0x91, 0x92, 0x93, (0x94 : Byte)] := by decide

theorem witness_CommandDecodeOrder :
    (scheduled live (.port 0x01_00000022_00000014#72)).cfg.wf ∧
    (scheduled live (.port 0x01_00000022_00000014#72)).schedule = [.port 0x01_00000022_00000014#72] ∧
    opcodeOf 0x08_00000000_00000000#72 ∉ [0x01, 0x02, 0x03, 0x04, 0x05, 0x06, (0x07 : Byte)] ∧
    (opcodeOf 0x01_00000022_00000014#72 = 0x01 ∧ live.ctl.initialized = true) ∧
    opcodeOf 0x07_0000000F_00000000#72 = 0x07 ∧
    (opcodeOf 0x02_00000000_00000000#72 ∈ [0x02, 0x03, 0x04, 0x05, (0x06 : Byte)] ∧
      opcodeOf 0x06_00000000_00000000#72 ∈ [0x02, 0x03, 0x04, 0x05, (0x06 : Byte)] ∧
      State.reset.ctl.initialized = false) := by decide

theorem witness_StepRunsTheDecodedOperation :
    State.reset.cfg.wf ∧
    (scheduled State.reset (.word 0x94_FFFFFFFF_00000100#72)).schedule = [.word 0x94_FFFFFFFF_00000100#72] ∧
    decode 0x94_FFFFFFFF_00000100#72 = .ok (.memWr 0xFFFFFFFF 0) ∧
    (scheduled live (.port 0x02_00000000_00000000#72)).schedule = [.port 0x02_00000000_00000000#72] ∧
    (decode 0x02_00000000_00000000#72 = .ok .pop ∧ Instr.pop.format = .command) ∧
    decodeTableWord 72 0x01_00000011_0000000A = some (.init 0x11 0x0A) := by decide

theorem witness_StepWithoutAnOperation :
    (¬ (State.resetWith ⟨0, 1024, 16, 64, 0⟩).cfg.wf) ∧ State.reset.cfg.wf ∧ State.reset.schedule = [] := by decide

theorem witness_CommandsAnswerTheirStatuses :
    Instr.format (.rdreg 0x0F) = .command ∧ State.reset.cfg.wf ∧
    opcodeOf 0x80_00000000_00000000#72 ∉ [0x01, 0x02, 0x03, 0x04, 0x05, 0x06, (0x07 : Byte)] ∧
    (holds (step (scheduled State.reset (.port 0x80_00000000_00000000#72))) fun _ => true) := by decide

theorem witness_OnlyCommandsRespond :
    Instr.format .pop = .command ∧ Instr.format .tmrTick ≠ .command ∧ (holds (exec .tmrTick live) fun _ => true) := by decide

theorem witness_NowReportsElapsedTime :
    State.reset.ctl.initialized = false ∧ live.ctl.initialized = true ∧ (withClock 0 1023 false).cfg.wf ∧
    (withClock 0 1023 false).tmr.cnt = (withClock 0 1023 false).cfg.counterModulus - 1 ∧
    (withClock 0 1023 false).tmr.ovf = false := by decide

theorem witness_TimerHandlerAddsOnePeriod :
    ((withClock 0xFFFFFFC0 0 true).ctl.ovfIe = true ∧ (withClock 0xFFFFFFC0 0 true).tmr.ovf = true) ∧
    live.tmr.ovf = false ∧ State.reset.ctl.ovfIe = false ∧ State.reset.Inv ∧ State.reset.ctl.initialized = false :=
  ⟨by decide, rfl, rfl, reset_inv, rfl⟩

theorem witness_PendingOverflowIsCounted :
    (holds (exec .irqTimer (withClock 128 3 true)) fun _ => true) ∧ (withClock 0 1023 false).cfg.wf ∧
    (withClock 0 1023 false).tmr.cnt = (withClock 0 1023 false).cfg.counterModulus - 1 ∧
    (withClock 0 1023 false).tmr.ovf = false ∧
    (holds (exec .tmrTick (withClock 0 1023 false)) fun _ => true) := by decide

/-- With `M = 1` every tick wraps (00_scope.md R7). -/
theorem witness_ElapsedTimeIsExactAndMonotone : ∃ t u : State,
    Config.wf ⟨1, 1, 1, 1, 0⟩ ∧ runOps [.init 0 0] (State.resetWith ⟨1, 1, 1, 1, 0⟩) = .next t ∧
    exec .tmrTick t = .next u ∧ u.tmr.ovfLost = false ∧
    (observe overflowEvent ([.init 0 0] ++ [.tmrTick]) (State.resetWith ⟨1, 1, 1, 1, 0⟩)).length = 1 :=
  ⟨_, _, by decide, rfl, rfl, rfl, by decide⟩

theorem witness_OverflowSequenceRuns :
    (withClock 0 1000 false).ctl.tmrRun = true ∧ (withClock 0 1000 false).ctl.ovfIe = true ∧
    (withClock 0 1000 false).tmr.ovf = false ∧
    (withClock 0 1000 false).tmr.cnt < (withClock 0 1000 false).cfg.counterModulus := by decide

theorem witness_OccupancyMatchesIndices :
    (full.ring.head < 4 ∧ full.ring.tail < 4 ∧ full.ring.isFull = true) ∧
    (State.reset.ring.head < 1 ∧ State.reset.ring.tail < 1 ∧ State.reset.ring.isEmpty = true) := by decide

theorem witness_AdvancingCyclesIndexAndLap : (0 < 1 ∧ 3 < 4) ∧ adv 4 3 false = (0, true) := by decide

theorem witness_PopTakesTheOldestByte :
    State.reset.ctl.initialized = false ∧
    (live.ctl.initialized = true ∧ live.ring.head = live.ring.tail ∧ live.ring.headLap = live.ring.tailLap) ∧
    (full.ctl.initialized = true ∧ ¬ (full.ring.head = full.ring.tail ∧ full.ring.headLap = full.ring.tailLap))
      := by decide

theorem witness_LenReportsOccupancy :
    State.reset.ctl.initialized = false ∧ full.ctl.initialized = true ∧ full.Inv ∧
    full.ring.head = full.ring.tail ∧ full.ring.headLap ≠ full.ring.tailLap :=
  ⟨rfl, rfl, full_inv, rfl, by decide⟩

theorem witness_ReceivedByteIsPushedOrCounted :
    ((waiting full 0x70).ctl.rxIe = true ∧ (waiting full 0x70).ser.rxReady = true ∧ (waiting full 0x70).tx.ie = false ∧
      (waiting full 0x70).ring.head = (waiting full 0x70).ring.tail ∧
      (waiting full 0x70).ring.headLap ≠ (waiting full 0x70).ring.tailLap) ∧
    ((waiting live 0x41).ctl.rxIe = true ∧ (waiting live 0x41).ser.rxReady = true ∧ (waiting live 0x41).tx.ie = false ∧
      ¬ ((waiting live 0x41).ring.head = (waiting live 0x41).ring.tail ∧
        (waiting live 0x41).ring.headLap ≠ (waiting live 0x41).ring.tailLap)) ∧
    (waiting (session .draining 1 (some 0x7E) none) 0x99).ser.thr ≠ none := by decide

/-- One byte received and popped. -/
def receiveOne : List Instr := [.init 0x11 0x0A, .serRx 0x55, .irqSerial, .pop]

theorem witness_RingIsFirstInFirstOut :
    (∃ t, live.Inv ∧ runOps [.serRx 0x55, .irqSerial, .pop] live = .next t) ∧
    (∃ t, Config.reference.wf ∧ runOps receiveOne (State.resetWith Config.reference) = .next t ∧
      observe returnedByte receiveOne (State.resetWith Config.reference) = [0x55]) :=
  ⟨⟨_, live_inv, rfl⟩, ⟨_, by decide, rfl, by decide⟩⟩

/-- V15: with `CAPACITY = 1` a second byte is dropped. -/
theorem witness_RingCountsAlongEveryRun : ∃ t : State,
    Config.wf ⟨1, 1024, 16, 64, 0⟩ ∧
    runOps [.init 0x11 0x0A, .serRx 0x55, .irqSerial, .serRx 0x66, .irqSerial] (State.resetWith ⟨1, 1024, 16, 64, 0⟩)
      = .next t ∧
    observe acceptedByte [.init 0x11 0x0A, .serRx 0x55, .irqSerial, .serRx 0x66, .irqSerial]
      (State.resetWith ⟨1, 1024, 16, 64, 0⟩) = [0x55] ∧
    observe droppedByte [.init 0x11 0x0A, .serRx 0x55, .irqSerial, .serRx 0x66, .irqSerial]
      (State.resetWith ⟨1, 1024, 16, 64, 0⟩) = [0x66] :=
  ⟨_, by decide, rfl, by decide, by decide⟩

theorem witness_TransmitStartsOrIsRejected :
    State.reset.ctl.initialized = false ∧
    ((session .filling 0 none none).ctl.initialized = true ∧ (session .filling 0 none none).tx.state ≠ .idle) ∧
    (live.ctl.initialized = true ∧ live.tx.state = .idle ∧ live.Inv) :=
  ⟨rfl, ⟨rfl, by decide⟩, rfl, rfl, live_inv⟩

/-- `session` with a length of two. -/
def session2 (state : TxState) (cursor : Word) (thr tsr : Option Byte) : State :=
  { session state cursor thr tsr with tx := { (session state cursor thr tsr).tx with len := 2 } }

theorem witness_SequencerTransitionTable :
    (live.ctl.initialized = true ∧ live.tx.state = .idle) ∧
    ((session .filling 0 none none).ctl.initialized = true ∧ (session .filling 0 none none).tx.state = .filling) ∧
    ((session2 .filling 0 none none).ser.rxReady = false ∧ (session2 .filling 0 none none).tx.ie = true ∧
      (session2 .filling 0 none none).ser.thr = none ∧ (session2 .filling 0 none none).tx.state = .filling ∧
      (session2 .filling 0 none none).tx.cursor.toNat + 1 < (session2 .filling 0 none none).tx.len.toNat ∧
      memRead (session2 .filling 0 none none)
        ((session2 .filling 0 none none).tx.ptr + (session2 .filling 0 none none).tx.cursor) = 0x7E) ∧
    ((session .filling 0 none none).tx.cursor.toNat + 1 = (session .filling 0 none none).tx.len.toNat ∧
      memRead (session .filling 0 none none)
        ((session .filling 0 none none).tx.ptr + (session .filling 0 none none).tx.cursor) = 0x7E) ∧
    ((session .draining 1 none none).tx.state = .draining ∧
      (session .draining 1 none none).tx.len.toNat ≤ (session .draining 1 none none).tx.cursor.toNat ∧
      (session .draining 1 none none).ser.tsr = none) ∧
    ((session .filling 1 none (some 0x7E)).tx.state = .filling ∧
      (session .filling 1 none (some 0x7E)).tx.len.toNat ≤ (session .filling 1 none (some 0x7E)).tx.cursor.toNat ∧
      (session .filling 1 none (some 0x7E)).ser.tsr ≠ none) ∧
    ((session .draining 1 none (some 0x7E)).tx.state = .draining ∧
      (session .draining 1 none (some 0x7E)).ser.tsr ≠ none ∧ (session .draining 1 none (some 0x7E)).ser.thr = none) ∧
    (live.Inv ∧ live.tx.state = .idle) :=
  ⟨by decide, by decide, by decide, by decide, by decide, by decide, by decide, live_inv, rfl⟩

theorem witness_PinRisesBeforeTheFirstByte :
    ((session .filling 0 none none).Inv ∧ (session .filling 0 none none).ser.thr = none ∧
      holds (exec .irqSerial (session .filling 0 none none)) fun t => t.ser.thr == some 0x7E) ∧
    (live.Inv ∧ live.tx.dir = .receive ∧ holds (exec (.transmit 0 0) live) fun t => t.tx.dir == .transmit) :=
  ⟨⟨filling_inv, rfl, by decide⟩, live_inv, rfl, by decide⟩

theorem witness_PinFallsOnlyWhenDrained :
    (session .draining 1 none none).Inv ∧ (session .draining 1 none none).tx.dir = .transmit ∧
    holds (exec .irqSerial (session .draining 1 none none)) fun t => t.tx.dir == .receive :=
  ⟨drained_inv, rfl, by decide⟩

theorem witness_ZeroLengthSessionPulsesThePin :
    live.Inv ∧ live.ctl.initialized = true ∧ live.tx.state = .idle := ⟨live_inv, rfl, rfl⟩

/-- Idle after a session of one byte: the cursor stands at 1. -/
def served : State := { live with tx := { live.tx with ptr := 0x20000100, len := 1, cursor := 1 } }

theorem served_inv : served.Inv := liveCheck_inv (by decide) (by decide) (by decide) (by decide) (by decide)

/-- One witness per clause: a TRANSMIT that meets a cursor of 1 sets it to 0; the byte of a
session of one counts 1; SER_LOAD and a TXSTEP at the end of the buffer leave the cursor. -/
theorem witness_CursorCountsBytesWritten :
    (served.Inv ∧ served.ctl.initialized = true ∧ served.tx.state = .idle ∧ served.tx.cursor ≠ 0 ∧
      holds (exec (.transmit 0 1) served) fun t => t.tx.cursor == 0) ∧
    ((session .filling 0 none none).Inv ∧ (session .filling 0 none none).tx.ie = true ∧
      (session .filling 0 none none).ser.thr = none ∧
      (session .filling 0 none none).tx.cursor < (session .filling 0 none none).tx.len ∧
      holds (exec .irqSerial (session .filling 0 none none)) fun t => t.tx.cursor == 1) ∧
    ((session .draining 1 none none).Inv ∧
      ¬ ((session .draining 1 none none).tx.cursor < (session .draining 1 none none).tx.len) ∧
      holds (exec .irqSerial (session .draining 1 none none)) fun t => t.tx.cursor == 1) ∧
    holds (exec .serLoad (session .draining 1 (some 0x7E) none)) fun t => t.tx.cursor == 1 && t.ser.thr.isNone :=
  ⟨⟨served_inv, rfl, rfl, by decide, by decide⟩, ⟨filling_inv, rfl, rfl, by decide, by decide⟩,
    ⟨drained_inv, by decide, by decide⟩, by decide⟩

/-- The buffer of V30 in an idle block. -/
def loaded : State := { live with mem := [(0x20000100, 0x7E)] }

theorem loaded_inv : loaded.Inv := liveCheck_inv (by decide) (by decide) (by decide) (by decide) (by decide)

/-- The schedule of V30 after its TRANSMIT. -/
def sendOne : List Instr := [.irqSerial, .serLoad, .irqSerial, .serDone, .irqSerial]

theorem witness_SessionPutsTheBufferOnTheWire : ∃ s' t : State,
    loaded.Inv ∧ loaded.ctl.initialized = true ∧ loaded.tx.state = .idle ∧
    exec (.transmit 0x20000100 1) loaded = .next s' ∧ runOps sendOne s' = .next t ∧
    (∀ i ∈ sendOne, ¬ writesBuffer i 0x20000100 1) ∧
    (∀ (early : List Instr) (u : State), early <+: sendOne → early ≠ sendOne → runOps early s' = .next u →
      u.tx.state ≠ .idle) ∧
    t.tx.state = .idle ∧ t.wire = [(0x7E, true)] := by
  refine ⟨_, _, loaded_inv, rfl, rfl, rfl, rfl, ?_, ?_, rfl, by decide⟩
  · rintro i hi ⟨v, k, -, rfl⟩
    simp [sendOne] at hi
  · intro early u hp hne hr
    have hm : early ∈ sendOne.inits := (List.mem_inits _ _).mpr hp
    simp only [sendOne, List.inits, List.map_cons, List.map_nil, List.mem_cons, List.not_mem_nil, or_false] at hm
    rcases hm with rfl | rfl | rfl | rfl | rfl | rfl
    · injection hr with hr; subst hr; decide
    · injection hr with hr; subst hr; decide
    · injection hr with hr; subst hr; decide
    · injection hr with hr; subst hr; decide
    · injection hr with hr; subst hr; decide
    · exact absurd rfl hne

/-- V30, then LEN for ever. -/
def fairOps : Nat → Instr
  | 0 => .transmit 0x20000100 1
  | 1 => .irqSerial
  | 2 => .serLoad
  | 3 => .serDone
  | 4 => .irqSerial
  | _ => .len

/-- The states of that execution. -/
def fairState : Nat → State
  | 0 => loaded
  | 1 => { session .filling 0 none none with ser := loaded.ser }
  | 2 => session .draining 1 (some 0x7E) none
  | 3 => session .draining 1 none (some 0x7E)
  | 4 => { session .draining 1 none none with
           wire := [(0x7E, true)], ser := { loaded.ser with tsrDir := .transmit } }
  | _ => { session .idle 1 none none with
           wire := [(0x7E, true)], ser := { loaded.ser with tsrDir := .transmit }
           tx := { (session .idle 1 none none).tx with ie := false, dir := .receive } }

theorem fair_execution : Execution fairOps fairState
  | 0 => rfl
  | 1 => rfl
  | 2 => rfl
  | 3 => rfl
  | 4 => rfl
  | _ + 5 => rfl

theorem fair_of_never_enabled {i : Instr} (h : enabled i (fairState 5) = false) : weaklyFair i fairOps fairState :=
  fun n hn => absurd (hn (n + 5) (Nat.le_add_right n 5)) (by
    rw [show fairState (n + 5) = fairState 5 from rfl, h]; simp)

theorem witness_FairSessionCompletes :
    Execution fairOps fairState ∧ Fair fairOps fairState ∧ (fairState 0).Inv ∧
    (fairState 0).ctl.initialized = true ∧ (fairState 0).tx.state = .idle ∧ fairOps 0 = .transmit 0x20000100 1 ∧
    ∀ m, ¬ writesBuffer (fairOps m) 0x20000100 1 := by
  refine ⟨fair_execution, ⟨fair_of_never_enabled (by decide), fair_of_never_enabled (by decide),
    fair_of_never_enabled (by decide), fair_of_never_enabled (by decide)⟩, loaded_inv, rfl, rfl, rfl, ?_⟩
  rintro m ⟨v, k, -, h⟩
  unfold fairOps at h
  split at h <;> cases h

theorem witness_PromptServiceSendsTheFrame :
    loaded.Inv ∧ loaded.ctl.initialized = true ∧ loaded.tx.state = .idle ∧ loaded.ser.rxReady = false :=
  ⟨loaded_inv, rfl, rfl, rfl⟩

theorem witness_DrainingWaitsForTheShiftRegister :
    (session .draining 1 none (some 0x7E)).Inv ∧ (session .draining 1 none (some 0x7E)).tx.state = .draining ∧
    (session .draining 1 none (some 0x7E)).ser.thr = none ∧ (session .draining 1 none (some 0x7E)).ser.tsr ≠ none ∧
    (session .draining 1 none (some 0x7E)).ser.rxReady = false :=
  ⟨draining_inv, rfl, rfl, by decide, rfl⟩

theorem witness_InitSetsUpTheBlockOnce :
    live.ctl.initialized = true ∧ State.reset.ctl.initialized = false ∧ State.reset.Inv := ⟨rfl, rfl, reset_inv⟩

theorem witness_BeforeInitOnlyInitAndRdregWork :
    State.reset.Inv ∧ State.reset.ctl.initialized = false ∧ (0x0E : Word).toNat ≤ 0x0E ∧
    Instr.format .irqTimer = .event ∧ Instr.format (.memWr 0 0) = .environment :=
  ⟨reset_inv, rfl, by decide, rfl, rfl⟩

theorem witness_PollNotifiesTheEngine : State.reset.ctl.initialized = false ∧ live.ctl.initialized = true := by decide

theorem witness_RdregReadsTheRegisterFile : 0x0E < (0x0F : Word).toNat ∧ (0x0E : Word).toNat ≤ 0x0E := by decide

theorem witness_PeriphRegisterFields : holds (exec (.rdreg 0x0D) live) fun _ => true := by decide

theorem witness_SerialHandlerServesEnabledConditions :
    ((waiting live 0x41).ctl.rxIe = true ∧ (waiting live 0x41).ser.rxReady = true ∧ (waiting live 0x41).tx.ie = false ∧
      holds (exec .irqSerial (waiting live 0x41)) fun _ => true) ∧
    ((session .filling 0 none none).tx.ie = true ∧ (session .filling 0 none none).ser.thr = none ∧
      (session .filling 0 none none).ser.rxReady = false ∧
      holds (exec .irqSerial (session .filling 0 none none)) fun _ => true) ∧
    stopsWith (exec .irqSerial live) .irqSerialNotEnabled := by decide

theorem witness_SubBehavioursCommute : (waiting (session .filling 0 none none) 0x33).irqSerial = true := by decide

theorem witness_InspectionsAreIdempotent :
    (holds (exec .len live) fun _ => true) ∧ (holds (exec .now live) fun _ => true) ∧
    (holds (exec (.rdreg 0xFFFFFFFF) live) fun _ => true) := by decide

theorem witness_TickCountsAndWraps :
    State.reset.ctl.tmrRun = false ∧
    (live.ctl.tmrRun = true ∧ live.tmr.cnt ≠ live.cfg.counterModulus - 1) ∧
    ((withClock 0 1023 false).ctl.tmrRun = true ∧
      (withClock 0 1023 false).tmr.cnt = (withClock 0 1023 false).cfg.counterModulus - 1 ∧
      (withClock 0 1023 false).tmr.ovf = false) ∧
    ((withClock 0 1023 true).tmr.cnt = (withClock 0 1023 true).cfg.counterModulus - 1 ∧
      (withClock 0 1023 true).tmr.ovf = true) := by decide

theorem witness_ArrivingByteIsHeldOrLost :
    State.reset.ctl.initialized = false ∧ (live.ctl.initialized = true ∧ live.ser.rxReady = false ∧ live.Inv) ∧
    ((waiting live 0x01).ctl.initialized = true ∧ (waiting live 0x01).ser.rxReady = true) :=
  ⟨rfl, ⟨rfl, rfl, live_inv⟩, rfl, rfl⟩

theorem witness_ShiftRegisterLoadsAndFinishes :
    ((session .draining 1 (some 0x7E) none).ser.thr = some 0x7E ∧ (session .draining 1 (some 0x7E) none).ser.tsr = none) ∧
    live.ser.thr = none ∧ (session .draining 1 none (some 0x7E)).ser.tsr = some 0x7E ∧ live.ser.tsr = none := by decide

theorem witness_MemWrWritesOneByte : Memory.wf (2 ^ 32) loaded.mem := by decide

theorem witness_OperationsAnswerExactlyWhenEnabled :
    enabled (.serRx 0) live = true ∧ enabled .tmrTick State.reset = false ∧ Instr.format .pop = .command := by decide

theorem witness_ResetMeetsTheInvariant : Config.reference.wf ∧ Config.wf ⟨1, 1, 1, 1, 0⟩ := by decide

theorem witness_EveryStepKeepsTheInvariant :
    (live.Inv ∧ holds (exec .tmrTick live) fun _ => true) ∧
    ((scheduled live (.port 0x02_00000000_00000000#72)).Inv ∧
      holds (step (scheduled live (.port 0x02_00000000_00000000#72))) fun _ => true) :=
  ⟨⟨live_inv, by decide⟩, Inv.withSchedule live_inv _, by decide⟩

/-- The state of V30 after its SER_LOAD: Draining, the byte in the shift register. -/
theorem draining_reachable : (session .draining 1 none (some 0x7E)).reachable :=
  ⟨Config.reference, [.memWr 0x20000100 0x7E, .init 0x11 0x0A, .transmit 0x20000100 1, .irqSerial, .serLoad],
    by decide, rfl⟩

theorem live_reachable : live.reachable := ⟨Config.reference, [.init 0x11 0x0A], by decide, rfl⟩

theorem witness_ReachableIndicesInRange : live.reachable ∧ live.cfg.capacity = 16 := ⟨live_reachable, rfl⟩

theorem witness_ReachableSequencerIsConsistent :
    (session .draining 1 none (some 0x7E)).reachable ∧ (session .draining 1 none (some 0x7E)).tx.state = .draining ∧
    (session .filling 0 none none).reachable ∧ (session .filling 0 none none).tx.state = .filling :=
  ⟨draining_reachable, rfl,
    ⟨Config.reference, [.memWr 0x20000100 0x7E, .init 0x11 0x0A, .transmit 0x20000100 1], by decide, rfl⟩, rfl⟩

theorem witness_ReachableIdleMeansPeripheralIdle :
    live.reachable ∧ live.tx.state = .idle ∧ holds (exec (.transmit 0 0) live) fun t => answers t 0x00 0 :=
  ⟨live_reachable, rfl, by decide⟩

theorem witness_ReachableBytesAreUnderTransmit :
    (session .draining 1 none (some 0x7E)).reachable ∧ (session .draining 1 none (some 0x7E)).ser.tsr ≠ none ∧
    holds (exec .serDone (session .draining 1 none (some 0x7E))) fun t => t.wire == [(0x7E, true)] :=
  ⟨draining_reachable, by decide, by decide⟩

theorem witness_FaultBitsAndErrorFlagsAreSticky :
    holds (exec .tmrTick (withClock 0 1023 true)) fun t => t.tmr.ovfLost && !t.noFault &&
      holds (exec .len t) fun u => u.tmr.ovfLost := by decide

theorem witness_EveryElementHasItsWriters : holds (exec (.memWr 0 1) live) fun _ => true := by decide

theorem witness_QuiescentStateIsIdle : live.Inv ∧ live.quiescent = true ∧ enabled .tmrTick live = true :=
  ⟨live_inv, by decide, rfl⟩

theorem witness_AssemblyGivesThePrintedWords :
    assemble "TICK" [] = some .poll ∧ assemble "RDREG" [0x0D] = some (.rdreg 0x0D) ∧
    assemble "SER_RX" [0xFF] = some (.serRx 0xFF) ∧ assemble "SER_RX" [0x100] = none ∧
    assemble "MEM_WR" [0xFFFFFFFF, 0xA1] = some (.memWr 0xFFFFFFFF 0xA1) := by decide

end Sys2Proof.Tests
end

section
/-! Where an operation answers and where it stops (00_scope.md R16; log entry 4). -/

namespace Sys2Proof.Machine

/-- A command is enabled in every state (30_encoding.md R93). -/
theorem enabled_of_command {i : Instr} (s : State) (h : i.format = .command) : enabled i s = true := by
  cases i with
  | init | pop | len | transmit | now | poll | rdreg => rfl
  | irqSerial | irqTimer | tmrTick | serRx | serLoad | serDone | memWr => nomatch h

/-- INIT answers before and after an earlier INIT (43_controller.md R183, R186). -/
theorem exec_init_answers (n d : Word) (s : State) : ∃ t, exec (.init n d) s = .next t := by
  simp only [exec, execInit]
  split <;> exact ⟨_, rfl⟩

/-- RDREG answers for every number, a register's or not (43_controller.md R188). -/
theorem exec_rdreg_answers (n : Word) (s : State) : ∃ t, exec (.rdreg n) s = .next t := by
  simp only [exec, execRdreg]
  split <;> exact ⟨_, rfl⟩

/-- SER_DONE is enabled while the shift register holds a byte (44_environment.md R206). -/
theorem Serial.doneEnabled_iff {p : Serial} : p.doneEnabled = true ↔ ∃ b, p.tsr = some b :=
  Option.isSome_iff_exists

/-- SER_DONE with an empty shift register stops (44_environment.md R206, log entry 4). -/
theorem exec_serDone_fault {s : State} (h : s.ser.doneEnabled = false) :
    exec .serDone s = .fault .serDoneNotEnabled := by
  have empty : s.ser.tsr = none := Option.isNone_iff_eq_none.mp (Option.isSome_eq_false_iff.mp h)
  simp only [exec, execSerDone, empty]

/-- An enabled operation answers a next state. -/
theorem exec_next_of_enabled {i : Instr} {s : State} (h : enabled i s = true) : ∃ t, exec i s = .next t := by
  cases i with
  | init n d => exact exec_init_answers n d s
  | rdreg n => exact exec_rdreg_answers n s
  | pop | len | transmit | now | poll => exact ⟨_, ifInitialized_eq _ _⟩
  | irqSerial => exact ⟨_, exec_irqSerial.mpr ⟨h, rfl⟩⟩
  | irqTimer => exact ⟨_, exec_irqTimer.mpr ⟨h, rfl⟩⟩
  | tmrTick => exact ⟨_, exec_tmrTick.mpr ⟨h, rfl⟩⟩
  | serRx b => exact ⟨_, exec_serRx.mpr ⟨h, rfl⟩⟩
  | serLoad => exact ⟨_, exec_serLoad.mpr ⟨h, rfl⟩⟩
  | serDone =>
    obtain ⟨b, hb⟩ := Serial.doneEnabled_iff.mp h
    exact ⟨_, exec_serDone.mpr ⟨b, hb, rfl⟩⟩
  | memWr a v => exact ⟨_, exec_memWr.mpr rfl⟩

/-- A disabled operation stops with a fault (the model's reading of R16, log entry 4). -/
theorem exec_fault_of_disabled {i : Instr} {s : State} (h : enabled i s = false) : ∃ f, exec i s = .fault f := by
  cases i with
  | init | pop | len | transmit | now | poll | rdreg | memWr => nomatch h
  | irqSerial | irqTimer | tmrTick | serRx | serLoad => exact ⟨_, ifEnabled_fault h⟩
  | serDone => exact ⟨_, exec_serDone_fault h⟩

theorem enabled_iff_exec_next {i : Instr} {s : State} : enabled i s = true ↔ ∃ t, exec i s = .next t := by
  refine ⟨exec_next_of_enabled, fun ⟨t, ht⟩ => ?_⟩
  by_contra off
  obtain ⟨f, hf⟩ := exec_fault_of_disabled (Bool.eq_false_of_not_eq_true off)
  exact nomatch ht.symm.trans hf

theorem disabled_iff_exec_fault {i : Instr} {s : State} : enabled i s = false ↔ ∃ f, exec i s = .fault f := by
  refine ⟨exec_fault_of_disabled, fun ⟨f, hf⟩ => ?_⟩
  by_contra on
  obtain ⟨t, ht⟩ := exec_next_of_enabled (Bool.eq_true_of_not_eq_false on)
  exact nomatch ht.symm.trans hf

/-- Settles O47: an enabled operation answers and a disabled one stops, case by case, and no answer is both. -/
theorem operationsAnswerExactlyWhenEnabled : Obligations.OperationsAnswerExactlyWhenEnabled := by
  unfold Obligations.OperationsAnswerExactlyWhenEnabled
  exact fun _ s => ⟨enabled_iff_exec_next, disabled_iff_exec_fault, enabled_of_command s⟩

end Sys2Proof.Machine
end

section
/-! The state after reset, element by element (10_state.md R53, 70_reset_and_hazards.md R261). -/

namespace Sys2Proof.Machine

@[simp] theorem resetWith_cfg (c : Config) : (State.resetWith c).cfg = c := rfl
@[simp] theorem resetWith_schedule (c : Config) : (State.resetWith c).schedule = [] := rfl
@[simp] theorem resetWith_port (c : Config) :
    (State.resetWith c).port = { arg0 := 0, arg1 := 0, rspStatus := 0x00, rspData := 0 } := rfl
@[simp] theorem resetWith_ctl (c : Config) : (State.resetWith c).ctl =
    { initialized := false, nodeId := 0, timeoutMs := 0, rxIe := false, ovfIe := false, tmrRun := false } := rfl
@[simp] theorem resetWith_accMs (c : Config) : (State.resetWith c).accMs = 0 := rfl
@[simp] theorem resetWith_ring (c : Config) : (State.resetWith c).ring =
    { slots := [], head := 0, headLap := false, tail := 0, tailLap := false, overrunCnt := 0, overrun := false } := rfl
@[simp] theorem resetWith_tx (c : Config) : (State.resetWith c).tx =
    { state := .idle, ptr := 0, len := 0, cursor := 0, ie := false, dir := .receive, busyCnt := 0, busyErr := false } :=
  rfl
@[simp] theorem resetWith_tmr (c : Config) :
    (State.resetWith c).tmr = { cnt := 0, ovf := false, ovfLost := false } := rfl
-- `ser.rdr` has no lemma: its reset value is the model's choice (log entry 8).
@[simp] theorem resetWith_ser_rxReady (c : Config) : (State.resetWith c).ser.rxReady = false := rfl
@[simp] theorem resetWith_ser_thr (c : Config) : (State.resetWith c).ser.thr = none := rfl
@[simp] theorem resetWith_ser_tsr (c : Config) : (State.resetWith c).ser.tsr = none := rfl
@[simp] theorem resetWith_ser_tsrDir (c : Config) : (State.resetWith c).ser.tsrDir = .receive := rfl
@[simp] theorem resetWith_ser_rxLost (c : Config) : (State.resetWith c).ser.rxLost = false := rfl
@[simp] theorem resetWith_mem (c : Config) : (State.resetWith c).mem = [] := rfl
@[simp] theorem resetWith_wire (c : Config) : (State.resetWith c).wire = [] := rfl
@[simp] theorem resetWith_peLog (c : Config) : (State.resetWith c).peLog = [] := rfl

/-- Equal indices under equal lap bits hold no byte (10_state.md R23). -/
theorem Ring.occ_of_isEmpty {r : Ring} (capacity : Nat) (h : r.isEmpty = true) : r.occ capacity = 0 := by
  obtain ⟨index, lap⟩ := (Ring.isEmpty_iff r).mp h
  rw [Ring.occ, if_pos index, if_pos lap]

theorem resetWith_occ (c : Config) (capacity : Nat) : (State.resetWith c).ring.occ capacity = 0 :=
  Ring.occ_of_isEmpty capacity rfl

/-- No line is raised while the enables are 0 (10_state.md R51). -/
@[simp] theorem resetWith_irqSerial (c : Config) : (State.resetWith c).irqSerial = false := by
  simp [State.irqSerial, State.rxCondition, State.txCondition]

@[simp] theorem resetWith_irqTimer (c : Config) : (State.resetWith c).irqTimer = false := by
  simp [State.irqTimer]

/-- Settles O48: every element has its reset value, so the ring is empty and no line is raised. -/
theorem resetLeavesTheBlockIdle : Obligations.ResetLeavesTheBlockIdle := by
  unfold Obligations.ResetLeavesTheBlockIdle
  rintro c s rfl
  rw [resetWith_occ]
  simp

theorem resetWith_ringInv {c : Config} (h : c.wf) : RingInv (State.resetWith c) := by
  obtain ⟨⟨positive, -⟩, -⟩ := h
  exact
    { headRange := positive
      tailRange := positive
      aheadSameLap := fun _ => rfl
      behindOtherLap := fun ahead => absurd ahead (lt_irrefl 0)
      slots := Memory.wf_nil _
      overrunFlag := fun _ => rfl }

theorem resetWith_txInv (c : Config) : TxInv (State.resetWith c) := by
  constructor <;> simp

theorem resetWith_controlInv (c : Config) : ControlInv (State.resetWith c) where
  rxEnable := rfl
  ovfEnable := rfl
  running := rfl
  beforeInit _ := rfl
  response := ⟨.ok, rfl, fun h => absurd rfl h⟩
  engineLog h := nomatch h

/-- Settles O49: an empty ring, an idle sequencer and a block before INIT, with the counter and the memory at their
lower ends. -/
theorem resetMeetsTheInvariant : Obligations.ResetMeetsTheInvariant := by
  unfold Obligations.ResetMeetsTheInvariant
  intro c h
  have modulus : 1 ≤ c.counterModulus := by
    obtain ⟨-, ⟨positive, -⟩, -⟩ := h
    exact positive
  exact
    { config := h
      ring := resetWith_ringInv h
      tx := resetWith_txInv c
      control := resetWith_controlInv c
      counter := modulus
      memory := Memory.wf_nil _ }

end Sys2Proof.Machine
end

section
/-! The registers STATUS and PERIPH, bit by bit (10_state.md R32, R45). -/

namespace Sys2Proof.Machine

/-- A register is packed one flag at a time: the last flag is bit 0, the rest moves up by one. -/
theorem getLsbD_append_bit {n : Nat} (x : BitVec n) (b : Bool) (k : Nat) :
    (x ++ bit b).getLsbD k = if k = 0 then b else x.getLsbD (k - 1) := by
  rw [bit, BitVec.getLsbD_append, BitVec.getLsbD_ofBool]
  cases k <;> simp

/-- The same for the two-bit code of the sequencer's state. -/
theorem getLsbD_append_code {n : Nat} (x : BitVec n) (q : TxState) (k : Nat) :
    (x ++ q.code).getLsbD k = if k < 2 then q.code.getLsbD k else x.getLsbD (k - 2) :=
  BitVec.getLsbD_append

/-- The flags of STATUS below and above its two-bit field `tx_state` (10_state.md R32). -/
theorem statusReg_flags (s : State) :
    s.statusReg.getLsbD 0 = s.ctl.initialized ∧ s.statusReg.getLsbD 1 = s.tx.dir.asserted ∧
    s.statusReg.getLsbD 4 = s.tx.ie ∧ s.statusReg.getLsbD 5 = s.ctl.rxIe ∧
    s.statusReg.getLsbD 6 = s.ctl.ovfIe ∧ s.statusReg.getLsbD 7 = s.ctl.tmrRun ∧
    s.statusReg.getLsbD 8 = s.ring.overrun ∧ s.statusReg.getLsbD 9 = s.tx.busyErr ∧
    s.statusReg.getLsbD 10 = s.ring.headLap ∧ s.statusReg.getLsbD 11 = s.ring.tailLap := by
  simp [State.statusReg, getLsbD_append_bit, getLsbD_append_code, -BitVec.getLsbD_eq_getElem]

theorem statusReg_state (s : State) : s.statusReg.extractLsb' 2 2 = s.tx.state.code := by
  apply BitVec.eq_of_getLsbD_eq
  intro k hk
  simp [State.statusReg, getLsbD_append_bit, getLsbD_append_code, hk, Nat.add_comm 2 k]

theorem statusReg_high (s : State) : s.statusReg.extractLsb' 12 20 = 0 := by
  apply BitVec.eq_of_getLsbD_eq
  intro k hk
  simp [State.statusReg, getLsbD_append_bit, getLsbD_append_code, Nat.add_comm 12 k]

theorem resetWith_statusReg (c : Config) : (State.resetWith c).statusReg = 0 := by
  simp only [State.statusReg, resetWith_ctl, resetWith_ring, resetWith_tx]
  decide

theorem Dir.asserted_iff {d : Dir} : d.asserted = true ↔ d = .transmit := by
  cases d <;> decide

/-- The three states have three codes (10_state.md R25). -/
theorem TxState.code_eq_iff {a b : TxState} : a.code = b.code ↔ a = b := by
  cases a <;> cases b <;> decide

/-- Settles O38: the flags and the field `tx_state` each at their bits; the codes tell the three states apart. -/
theorem statusRegisterFields : Obligations.StatusRegisterFields := by
  unfold Obligations.StatusRegisterFields
  refine ⟨fun s => ?_, resetWith_statusReg⟩
  obtain ⟨b0, b1, b4, b5, b6, b7, b8, b9, b10, b11⟩ := statusReg_flags s
  rw [b1, statusReg_state]
  exact ⟨b0, Dir.asserted_iff, TxState.code_eq_iff (b := .idle), TxState.code_eq_iff (b := .filling),
    TxState.code_eq_iff (b := .draining), b4, b5, b6, b7, b8, b9, b10, b11, statusReg_high s⟩

/-- The flags of PERIPH (10_state.md R45). -/
theorem periphReg_flags (s : State) :
    s.periphReg.getLsbD 0 = s.ser.rxReady ∧ s.periphReg.getLsbD 1 = s.ser.txReady ∧
    s.periphReg.getLsbD 2 = s.ser.txComplete ∧ s.periphReg.getLsbD 3 = s.tmr.ovf ∧
    s.periphReg.getLsbD 4 = s.irqSerial ∧ s.periphReg.getLsbD 5 = s.irqTimer := by
  simp [State.periphReg, getLsbD_append_bit, -BitVec.getLsbD_eq_getElem]

theorem periphReg_high (s : State) : s.periphReg.extractLsb' 6 26 = 0 := by
  apply BitVec.eq_of_getLsbD_eq
  intro k hk
  simp [State.periphReg, getLsbD_append_bit, Nat.add_comm 6 k]

theorem Serial.txReady_iff {p : Serial} : p.txReady = true ↔ p.thr = none := Option.isNone_iff_eq_none

theorem Serial.txComplete_iff {p : Serial} : p.txComplete = true ↔ p.thr = none ∧ p.tsr = none := by
  simp [Serial.txComplete]

theorem State.irqSerial_iff {s : State} : s.irqSerial = true ↔
    (s.ctl.rxIe = true ∧ s.ser.rxReady = true) ∨ (s.tx.ie = true ∧ s.ser.thr = none) := by
  simp [State.irqSerial, State.rxCondition, State.txCondition, Serial.txReady_iff]

theorem State.irqTimer_iff {s : State} : s.irqTimer = true ↔ s.ctl.ovfIe = true ∧ s.tmr.ovf = true := by
  simp [State.irqTimer]

theorem resetWith_periphReg (c : Config) : (State.resetWith c).periphReg = 0x00000006 := by
  have ready : (State.resetWith c).ser.txReady = true := Serial.txReady_iff.mpr (resetWith_ser_thr c)
  have complete : (State.resetWith c).ser.txComplete = true :=
    Serial.txComplete_iff.mpr ⟨resetWith_ser_thr c, resetWith_ser_tsr c⟩
  simp only [State.periphReg, ready, complete, resetWith_irqTimer, resetWith_irqSerial, resetWith_tmr,
    resetWith_ser_rxReady]
  decide

/-- RDREG of PERIPH answers the register and touches no peripheral (10_state.md R45, 43_controller.md R188). -/
theorem exec_rdreg_periph {s t : State} (h : exec (.rdreg 0x0D) s = .next t) : t = respond s .ok s.periphReg := by
  have row : readReg s (0x0D : Word).toNat = some s.periphReg := rfl
  rcases exec_rdreg h with ⟨v, hv, ht⟩ | ⟨missing, -⟩
  · rw [ht, Option.some.inj (hv.symm.trans row)]
  · exact nomatch missing.symm.trans row

/-- Settles O39: the flags at their bits, each with its condition; RDREG writes the response alone. -/
theorem periphRegisterFields : Obligations.PeriphRegisterFields := by
  unfold Obligations.PeriphRegisterFields
  refine ⟨fun s => ?_, resetWith_periphReg⟩
  obtain ⟨b0, b1, b2, b3, b4, b5⟩ := periphReg_flags s
  rw [b1, b2, b4, b5]
  refine ⟨b0, Serial.txReady_iff, Serial.txComplete_iff, b3, State.irqSerial_iff, State.irqTimer_iff,
    periphReg_high s, fun t h => ?_⟩
  rw [exec_rdreg_periph h]
  exact ⟨rfl, rfl, rfl⟩

end Sys2Proof.Machine
end

section
/-! Who writes what (10_state.md R20, 20_memory.md R73). -/

namespace Sys2Proof.Machine

/-- The RX part of IRQ_SERIAL writes the ring and the peripheral, and leaves the consumer's index alone (41_ring.md
R142). -/
theorem serveRx_writes (s : State) : ∃ (r : Ring) (p : Serial), serveRx s = { s with ring := r, ser := p } ∧
    r.tail = s.ring.tail ∧ r.tailLap = s.ring.tailLap := by
  refine ⟨_, _, serveRx_frame s, ?_⟩
  rcases serveRx_cases s with ⟨-, e⟩ | ⟨-, e⟩ <;> simp [e]

/-- The TX part of IRQ_SERIAL writes the sequencer and the peripheral, and leaves the record of rejected transmissions
alone (42_txseq.md R163). -/
theorem serveTx_writes (s : State) : ∃ (x : TxSeq) (p : Serial), serveTx s = { s with tx := x, ser := p } ∧
    x.busyCnt = s.tx.busyCnt ∧ x.busyErr = s.tx.busyErr := by
  refine ⟨_, _, serveTx_frame s, ?_⟩
  rcases serveTx_cases s with ⟨-, e⟩ | ⟨-, -, e⟩ | ⟨-, -, -, e⟩ | ⟨-, -, -, e⟩ <;> simp [e]

/-- IRQ_SERIAL writes what its two parts write (43_controller.md R191). -/
theorem exec_irqSerial_writes {s t : State} (h : exec .irqSerial s = .next t) :
    ∃ (r : Ring) (x : TxSeq) (p : Serial), t = { s with ring := r, tx := x, ser := p } ∧
      r.tail = s.ring.tail ∧ r.tailLap = s.ring.tailLap ∧
      x.busyCnt = s.tx.busyCnt ∧ x.busyErr = s.tx.busyErr := by
  obtain ⟨-, ht⟩ := exec_irqSerial.mp h
  obtain ⟨r, p, rx, tail, tailLap⟩ := serveRx_writes s
  rw [rx] at ht
  obtain ⟨x, q, tx, busyCnt, busyErr⟩ := serveTx_writes { s with ring := r, ser := p }
  exact ⟨r, x, q, ht.trans tx, tail, tailLap, busyCnt, busyErr⟩

/-- Settles O56: operation by operation, from what each writes. -/
theorem everyElementHasItsWriters : Obligations.EveryElementHasItsWriters := by
  unfold Obligations.EveryElementHasItsWriters
  intro i s t h
  cases i with
  | init n d => rcases exec_init h with ⟨-, rfl⟩ | ⟨-, rfl⟩ <;> simp [Instr.format]
  | pop => rcases exec_pop h with ⟨-, rfl⟩ | ⟨-, -, rfl⟩ | ⟨-, -, rfl⟩ <;> simp [Instr.format]
  | len => rcases exec_len h with ⟨-, rfl⟩ | ⟨-, rfl⟩ <;> simp [Instr.format]
  | transmit p l => rcases exec_transmit h with ⟨-, rfl⟩ | ⟨-, -, rfl⟩ | ⟨-, -, rfl⟩ <;> simp [Instr.format]
  | now => rcases exec_now h with ⟨-, rfl⟩ | ⟨-, rfl⟩ <;> simp [Instr.format]
  | poll => rcases exec_poll h with ⟨-, rfl⟩ | ⟨-, rfl⟩ <;> simp [Instr.format]
  | rdreg n => rcases exec_rdreg h with ⟨v, -, rfl⟩ | ⟨-, rfl⟩ <;> simp [Instr.format]
  | irqSerial =>
    obtain ⟨r, x, p, rfl, tail, tailLap, busyCnt, busyErr⟩ := exec_irqSerial_writes h
    simp [tail, tailLap, busyCnt, busyErr]
  | irqTimer => obtain ⟨-, rfl⟩ := exec_irqTimer.mp h; simp
  | tmrTick => obtain ⟨-, rfl⟩ := exec_tmrTick.mp h; simp
  | serRx b => obtain ⟨-, rfl⟩ := exec_serRx.mp h; simp
  | serLoad => obtain ⟨-, rfl⟩ := exec_serLoad.mp h; simp
  | serDone => obtain ⟨b, -, rfl⟩ := exec_serDone.mp h; simp
  | memWr a v => obtain rfl := exec_memWr.mp h; simp

end Sys2Proof.Machine
end

section
/-! The inspections LEN, NOW and RDREG: they read no response and write nothing else (20_memory.md R68). -/

namespace Sys2Proof.Machine

/-- The commands that only inspect (20_memory.md R68). -/
abbrev Inspects (i : Instr) : Prop := i = .len ∨ i = .now ∨ ∃ n, i = .rdreg n

/-- A response replaces the one before it (10_state.md R21). -/
@[simp] theorem respond_respond (s : State) (r q : Status) (d e : Word) :
    respond (respond s r d) q e = respond s q e := rfl

/-- The elapsed time is sampled from the clock alone (40_clock.md R122). -/
@[simp] theorem elapsed_respond (s : State) (r : Status) (d : Word) : (respond s r d).elapsed = s.elapsed := rfl

/-- The response is no register (10_state.md R31 to R46). -/
@[simp] theorem readReg_respond (s : State) (r : Status) (d : Word) (n : Nat) :
    readReg (respond s r d) n = readReg s n := rfl

/-- Neither the check nor the refusal NOT_INIT depends on the response (line 4 of 30_encoding.md R103). -/
@[simp] theorem ifInitialized_respond (s run : State) (r : Status) (d : Word) :
    ifInitialized (respond s r d) run = ifInitialized s run := rfl

/-- An inspection writes the response alone. -/
theorem exec_eq_respond_of_inspects {i : Instr} {s t : State} (hi : Inspects i) (h : exec i s = .next t) :
    ∃ r d, t = respond s r d := by
  rcases hi with rfl | rfl | ⟨n, rfl⟩
  · rcases exec_len h with ⟨-, ht⟩ | ⟨-, ht⟩ <;> exact ⟨_, _, ht⟩
  · rcases exec_now h with ⟨-, ht⟩ | ⟨-, ht⟩ <;> exact ⟨_, _, ht⟩
  · rcases exec_rdreg h with ⟨v, -, ht⟩ | ⟨-, ht⟩ <;> exact ⟨_, _, ht⟩

/-- What an inspection answers does not depend on the response that stood before it. -/
theorem exec_respond_of_inspects {i : Instr} (hi : Inspects i) (s : State) (r : Status) (d : Word) :
    exec i (respond s r d) = exec i s := by
  rcases hi with rfl | rfl | ⟨n, rfl⟩
  · simp [exec, execLen]
  · simp [exec, execNow]
  · simp [exec, execRdreg]

/-- Settles O42: the first run writes the response alone, and the second answers as from the state before it. -/
theorem inspectionsAreIdempotent : Obligations.InspectionsAreIdempotent := by
  unfold Obligations.InspectionsAreIdempotent
  intro i s t hi h
  obtain ⟨r, d, rfl⟩ := exec_eq_respond_of_inspects hi h
  exact ⟨rfl, (exec_respond_of_inspects hi s r d).trans h⟩

end Sys2Proof.Machine
end

section
/-! The decoder field by field: the opcode picks the operation, and the operation's operands are read from their
fields (30_encoding.md R90, R92, R96). -/

namespace Sys2Proof

open Laws.Fields (packWord_and and_ones)

/-- The opcodes of 30_encoding.md R92. -/
abbrev opcodeMap : List Byte :=
  [0x01, 0x02, 0x03, 0x04, 0x05, 0x06, 0x07, 0x80, 0x81, 0x90, 0x91, 0x92, 0x93, 0x94]

/-- The opcodes of the command port (line 1 of 30_encoding.md R103). -/
abbrev commandOpcodes : List Byte := [0x01, 0x02, 0x03, 0x04, 0x05, 0x06, 0x07]

/-- The operands of the operation are what the word holds in the fields it reads (30_encoding.md R94 to R96). -/
def Instr.operandsIn : Instr → OpWord → Prop
  | .init nodeId timeoutMs, w => nodeId = arg0Of w ∧ timeoutMs = arg1Of w
  | .transmit ptr length, w => ptr = arg0Of w ∧ length = arg1Of w
  | .rdreg n, w => n = arg0Of w
  | .serRx b, w => b = byteOf w
  | .memWr addr v, w => addr = arg0Of w ∧ v = byteOf w
  | .pop, _ | .len, _ | .now, _ | .poll, _ | .irqSerial, _ | .irqTimer, _ | .tmrTick, _ | .serLoad, _ | .serDone, _ =>
    True

theorem Instr.opcode_mem (i : Instr) : i.opcode ∈ opcodeMap := by
  cases i <;> simp [Instr.opcode]

theorem Instr.format_command_iff {i : Instr} : i.format = .command ↔ i.opcode ∈ commandOpcodes := by
  cases i <;> simp [Instr.format, Instr.opcode]

/-- What the decoder reads: the opcode and the operands, and no other bit. -/
theorem decode_ok_iff {w : OpWord} {i : Instr} : decode w = .ok i ↔ opcodeOf w = i.opcode ∧ i.operandsIn w := by
  have answer := decode_cases w
  constructor
  · intro h
    rw [h] at answer
    cases i <;> simpa [Instr.opcode, Instr.operandsIn] using answer
  · rintro ⟨op, operands⟩
    rw [op] at answer
    cases i <;> simp_all [Instr.opcode, Instr.operandsIn]

/-- The one error, and where it is answered (30_encoding.md R97). -/
theorem decode_error {w : OpWord} {e : DecodeError} (h : decode w = .error e) :
    opcodeOf w ∉ opcodeMap ∧ e = .reservedOpcode (opcodeOf w) := by
  have answer := decode_cases w
  rw [h] at answer
  simpa using answer

theorem opcodeOf_mem_of_decode {w : OpWord} {i : Instr} (h : decode w = .ok i) : opcodeOf w ∈ opcodeMap := by
  obtain ⟨op, -⟩ := decode_ok_iff.mp h
  exact op ▸ i.opcode_mem

theorem decode_reserved {w : OpWord} (h : opcodeOf w ∉ opcodeMap) : decode w = .error (.reservedOpcode (opcodeOf w)) := by
  cases hd : decode w with
  | ok i => exact absurd (opcodeOf_mem_of_decode hd) h
  | error e =>
    obtain ⟨-, rfl⟩ := decode_error hd
    rfl

theorem decode_mapped {w : OpWord} (h : opcodeOf w ∈ opcodeMap) : ∃ i, decode w = .ok i := by
  cases hd : decode w with
  | ok i => exact ⟨i, rfl⟩
  | error e =>
    obtain ⟨reserved, -⟩ := decode_error hd
    exact absurd h reserved

theorem decode_command {w : OpWord} (h : opcodeOf w ∈ commandOpcodes) :
    ∃ i, decode w = .ok i ∧ i.format = .command := by
  obtain ⟨i, hi⟩ := decode_mapped (List.mem_append_left _ h)
  obtain ⟨op, -⟩ := decode_ok_iff.mp hi
  exact ⟨i, hi, Instr.format_command_iff.mpr (op ▸ h)⟩

/-- The command port's decoder accepts no word outside its seven opcodes (30_encoding.md R97). -/
theorem decodeCommand_illegal {w : OpWord} (h : opcodeOf w ∉ commandOpcodes) : decodeCommand w = none := by
  by_contra accepted
  obtain ⟨i, hi⟩ := Option.ne_none_iff_exists'.mp accepted
  obtain ⟨decoded, command⟩ := Machine.decodeCommand_some.mp hi
  obtain ⟨op, -⟩ := decode_ok_iff.mp decoded
  exact h (op ▸ Instr.format_command_iff.mp command)

/-- The encoding holds the operation's operands in the fields it reads them from (30_encoding.md R96). -/
theorem Instr.operandsIn_encode (i : Instr) : i.operandsIn (encode i) := by
  cases i <;> simp [Instr.operandsIn, encode]

/-- The encoding carries the operation's row of 30_encoding.md R92. -/
theorem opcodeOf_encode (i : Instr) : opcodeOf (encode i) = i.opcode := by
  cases i <;> simp [encode, Instr.opcode]

/-- Settles O1: the encoding carries the operation's opcode and operands, which are all that the decoder reads. -/
theorem decodeEncodeRoundTrip : Obligations.DecodeEncodeRoundTrip := by
  unfold Obligations.DecodeEncodeRoundTrip
  exact fun i => decode_ok_iff.mpr ⟨opcodeOf_encode i, i.operandsIn_encode⟩

/-- The byte operand is what the mask `0xFF` leaves of `arg1` (30_encoding.md R96). -/
theorem setWidth_byteOf (w : OpWord) : (byteOf w).setWidth 32 = arg1Of w &&& 255#32 := by
  rw [byteOf_eq_setWidth]
  apply BitVec.eq_of_toNat_eq
  simp only [BitVec.toNat_setWidth, BitVec.toNat_and, BitVec.toNat_ofNat]
  rw [Nat.mod_eq_of_lt (by omega)]
  exact (Nat.and_two_pow_sub_one_eq_mod _ 8).symm

/-- Settles O2: the mask acts field by field, and each field is kept where the decoder read it and 0 elsewhere. -/
theorem decodedWordIsEncodingOnUsedBits : Obligations.DecodedWordIsEncodingOnUsedBits := by
  unfold Obligations.DecodedWordIsEncodingOnUsedBits
  intro w i h
  obtain ⟨op, operands⟩ := decode_ok_iff.mp h
  rw [packWord_fields w, op]
  cases i <;> simp_all [Instr.operandsIn, encode, Instr.usedBits, Instr.opcode, packWord_and, and_ones, setWidth_byteOf]

/-- Settles O3: a word decodes to an operation of its own opcode, or its opcode is reserved. -/
theorem opcodeMapIsComplete : Obligations.OpcodeMapIsComplete := by
  unfold Obligations.OpcodeMapIsComplete
  refine fun w => ⟨fun i h => ?_, ⟨fun ⟨i, h⟩ => opcodeOf_mem_of_decode h, decode_mapped⟩, fun e h => ?_⟩
  · obtain ⟨op, -⟩ := decode_ok_iff.mp h
    exact op.symm
  · obtain ⟨-, reserved⟩ := decode_error h
    exact reserved

/-- The opcodes of the operations without operands (30_encoding.md R98; R94 and R95 for the last five). -/
abbrev operandlessOpcodes : List Byte := [0x02, 0x03, 0x05, 0x06] ++ [0x80, 0x81, 0x90, 0x92, 0x93]

theorem Instr.operandsIn_of_operandless {i : Instr} (h : i.opcode ∈ operandlessOpcodes) (w : OpWord) :
    i.operandsIn w := by
  cases i <;> simp_all [Instr.opcode, Instr.operandsIn]

/-- For an operation without operands the opcode is all that counts (30_encoding.md R98). -/
theorem decode_eq_of_operandless {w w' : OpWord} (op : opcodeOf w = opcodeOf w') (h : opcodeOf w ∈ operandlessOpcodes) :
    decode w = decode w' := by
  have mapped : operandlessOpcodes ⊆ opcodeMap := by decide
  obtain ⟨i, hi⟩ := decode_mapped (mapped h)
  obtain ⟨code, -⟩ := decode_ok_iff.mp hi
  rw [hi, decode_ok_iff.mpr ⟨op ▸ code, Instr.operandsIn_of_operandless (code ▸ h) w'⟩]

theorem decode_init {w : OpWord} (h : opcodeOf w = 0x01) : decode w = .ok (.init (arg0Of w) (arg1Of w)) :=
  decode_ok_iff.mpr ⟨h, rfl, rfl⟩

theorem decode_rdreg {w : OpWord} (h : opcodeOf w = 0x07) : decode w = .ok (.rdreg (arg0Of w)) :=
  decode_ok_iff.mpr ⟨h, rfl⟩

theorem decode_serRx {w : OpWord} (h : opcodeOf w = 0x91) : decode w = .ok (.serRx ((arg1Of w).setWidth 8)) :=
  decode_ok_iff.mpr ⟨h, (byteOf_eq_setWidth w).symm⟩

theorem decode_memWr {w : OpWord} (h : opcodeOf w = 0x94) :
    decode w = .ok (.memWr (arg0Of w) ((arg1Of w).setWidth 8)) :=
  decode_ok_iff.mpr ⟨h, rfl, (byteOf_eq_setWidth w).symm⟩

/-- Settles O4: the opcode and the fields that are read give the operation, and the encoding writes 0 elsewhere. -/
theorem ignoredFieldsDoNotMatter : Obligations.IgnoredFieldsDoNotMatter := by
  unfold Obligations.IgnoredFieldsDoNotMatter
  refine ⟨fun w w' op => ⟨fun code => ?_, fun code arg0 => ?_, fun code => ?_, fun code byte => ?_,
    fun code arg0 byte => ?_⟩, by simp [encode], fun n => arg1Of_packWord _ _ _, fun b => arg0Of_packWord _ _ _⟩
  · exact decode_eq_of_operandless op (List.mem_append_left _ code)
  · rw [decode_rdreg code, decode_rdreg (op ▸ code), arg0]
  · exact decode_eq_of_operandless op (List.mem_append_right _ code)
  · rw [decode_serRx code, decode_serRx (op ▸ code), byte]
  · rw [decode_memWr code, decode_memWr (op ▸ code), arg0, byte]

/-- Settles O5, by decoding the eight words. -/
theorem writtenWordsDecode : Obligations.WrittenWordsDecode := by
  unfold Obligations.WrittenWordsDecode
  decide

end Sys2Proof
end

section
/-! One step: the next entry of the schedule, decoded and run (30_encoding.md R97, R103; log entry 2). -/

namespace Sys2Proof.Machine

section entry
variable {s : State} {w : OpWord} {rest : List Entry}

theorem step_word {i : Instr} (h : s.cfg.wf) (hs : s.schedule = .word w :: rest) (hd : decode w = .ok i) :
    step s = exec i (if i.format = .command then latchOperands { s with schedule := rest } w
      else { s with schedule := rest }) := by
  simp only [step, fetch_entry h hs, fetchEntry_word _ hd]

theorem step_malformed (h : s.cfg.wf) (hs : s.schedule = .word w :: rest) (reserved : opcodeOf w ∉ opcodeMap) :
    step s = .refused (.malformedWord (opcodeOf w)) := by
  simp only [step, fetch_entry h hs, fetchEntry_malformed _ (decode_reserved reserved)]

theorem step_port {i : Instr} (h : s.cfg.wf) (hs : s.schedule = .port w :: rest) (hd : decode w = .ok i)
    (command : i.format = .command) : step s = exec i (latchOperands { s with schedule := rest } w) := by
  simp only [step, fetch_entry h hs, fetchEntry_port _ (decodeCommand_some.mpr ⟨hd, command⟩)]

theorem step_illegal (h : s.cfg.wf) (hs : s.schedule = .port w :: rest) (illegal : opcodeOf w ∉ commandOpcodes) :
    step s = .next (respond (latchOperands { s with schedule := rest } w) .illegal 0) := by
  simp only [step, fetch_entry h hs, fetchEntry_illegal _ (decodeCommand_illegal illegal)]

/-- A word of the command port whose opcode is a command's runs that command (line 5 of 30_encoding.md R103). -/
theorem step_port_command (h : s.cfg.wf) (hs : s.schedule = .port w :: rest) (op : opcodeOf w ∈ commandOpcodes) :
    ∃ i : Instr, decode w = .ok i ∧ i.format = .command ∧
      step s = exec i (latchOperands { s with schedule := rest } w) := by
  obtain ⟨i, hd, command⟩ := decode_command op
  exact ⟨i, hd, command, step_port h hs hd command⟩

end entry

/-- Settles O6: the port answers in the latches alone, and a malformed word of a schedule is refused. -/
theorem illegalWordsAnswerIllegal : Obligations.IllegalWordsAnswerIllegal := by
  unfold Obligations.IllegalWordsAnswerIllegal
  exact fun s w rest h => ⟨step_illegal h, step_malformed h⟩

/-- A second INIT (43_controller.md R183). -/
theorem exec_init_of_initialized {s : State} (n d : Word) (h : s.ctl.initialized = true) :
    exec (.init n d) s = .next (respond s .alreadyInit 0) := by
  simp only [exec, execInit, h, if_true]

/-- Line 4 of 30_encoding.md R103: before INIT every command but INIT and RDREG is refused. -/
theorem exec_of_not_initialized {i : Instr} {s : State} (h : s.ctl.initialized = false)
    (guarded : i.opcode ∈ [0x02, 0x03, 0x04, 0x05, (0x06 : Byte)]) : exec i s = .next (respond s .notInit 0) := by
  have refused (run : State) : ifInitialized s run = .next (respond s .notInit 0) := by
    rw [ifInitialized_eq, h]
    rfl
  cases i with
  | pop | len | transmit | now | poll => exact refused _
  | init | rdreg | irqSerial | irqTimer | tmrTick | serRx | serLoad | serDone | memWr =>
    simp [Instr.opcode] at guarded

/-- Settles O7: each line from the opcode's operation, run with its operands latched. -/
theorem commandDecodeOrder : Obligations.CommandDecodeOrder := by
  unfold Obligations.CommandDecodeOrder
  rintro s w rest h hs u rfl
  refine ⟨step_illegal h hs, fun op live => ?_, fun op => step_port h hs (decode_rdreg op) rfl, fun guarded off => ?_,
    step_port_command h hs⟩
  · rw [step_port h hs (decode_init op) rfl]
    exact exec_init_of_initialized _ _ live
  · have commands : [0x02, 0x03, 0x04, 0x05, (0x06 : Byte)] ⊆ commandOpcodes := by decide
    obtain ⟨i, hd, -, hstep⟩ := step_port_command h hs (commands guarded)
    obtain ⟨op, -⟩ := decode_ok_iff.mp hd
    rw [hstep]
    exact exec_of_not_initialized off (op ▸ guarded)

/-- The host's reading of a numbered word is the decoder's. -/
theorem decode_of_decodeTableWord {nbits w : Nat} {i : Instr} (h : decodeTableWord nbits w = some i) :
    decode (tableWord nbits w) = .ok i := by
  unfold decodeTableWord at h
  split at h
  · next hd => rw [hd, Option.some.inj h]
  · exact nomatch h

/-- Settles O8: the two kinds of entry, and a word put first in the schedule. -/
theorem stepRunsTheDecodedOperation : Obligations.StepRunsTheDecodedOperation := by
  unfold Obligations.StepRunsTheDecodedOperation
  refine ⟨fun s w rest i => step_word, fun s w rest i => step_port, fun s nbits w i h table => ?_⟩
  exact step_word (s := s.withFetchWord nbits w) h rfl (decode_of_decodeTableWord table)

/-- The register file ends at `0x0E` (10_state.md R31). -/
theorem lt_of_readReg_none {s : State} {n : Nat} (h : readReg s n = none) : 0x0E < n := by
  by_contra le
  obtain ⟨v, hv⟩ := readReg_some s (Nat.le_of_not_lt le)
  exact nomatch hv.symm.trans h

/-- The "returned by" column of 30_encoding.md R99, for the statuses of a command that has been decoded. -/
def Status.returnedBy : Status → Instr → Prop
  | .ok, _ => True
  | .empty, i => i = .pop
  | .busy, i => ∃ p l, i = .transmit p l
  | .notInit, i => i = .pop ∨ i = .len ∨ i = .now ∨ i = .poll ∨ ∃ p l, i = .transmit p l
  | .illegal, _ => False
  | .badReg, i => ∃ n : Word, i = .rdreg n ∧ 0x0E < n.toNat
  | .alreadyInit, i => ∃ n d, i = .init n d

/-- A command answers a status that is its own to return, with data only where its rule gives it one (30_encoding.md
R91, R99). -/
theorem exec_command_responds {i : Instr} {s t : State} (command : i.format = .command) (h : exec i s = .next t) :
    ∃ (u : State) (st : Status) (d : Word), t = respond u st d ∧ st.returnedBy i ∧
      (d ≠ 0 → st = .ok ∧ (i = .pop ∨ i = .len ∨ i = .now ∨ ∃ n, i = .rdreg n)) := by
  cases i with
  | init n d =>
    rcases exec_init h with ⟨-, rfl⟩ | ⟨-, rfl⟩ <;> exact ⟨_, _, _, rfl, by simp [Status.returnedBy]⟩
  | pop =>
    rcases exec_pop h with ⟨-, rfl⟩ | ⟨-, -, rfl⟩ | ⟨-, -, rfl⟩ <;> exact ⟨_, _, _, rfl, by simp [Status.returnedBy]⟩
  | len =>
    rcases exec_len h with ⟨-, rfl⟩ | ⟨-, rfl⟩ <;> exact ⟨_, _, _, rfl, by simp [Status.returnedBy]⟩
  | transmit p l =>
    rcases exec_transmit h with ⟨-, rfl⟩ | ⟨-, -, rfl⟩ | ⟨-, -, rfl⟩ <;> exact ⟨_, _, _, rfl, by simp [Status.returnedBy]⟩
  | now =>
    rcases exec_now h with ⟨-, rfl⟩ | ⟨-, rfl⟩ <;> exact ⟨_, _, _, rfl, by simp [Status.returnedBy]⟩
  | poll =>
    rcases exec_poll h with ⟨-, rfl⟩ | ⟨-, rfl⟩ <;> exact ⟨_, _, _, rfl, by simp [Status.returnedBy]⟩
  | rdreg n =>
    rcases exec_rdreg h with ⟨v, -, rfl⟩ | ⟨noReg, rfl⟩
    · exact ⟨_, _, _, rfl, by simp [Status.returnedBy]⟩
    · exact ⟨_, _, _, rfl, ⟨n, rfl, lt_of_readReg_none noReg⟩, by simp⟩
  | irqSerial | irqTimer | tmrTick | serRx | serLoad | serDone | memWr => nomatch command

/-- A command always answers (30_encoding.md R91, R93). -/
theorem exec_command_answers {i : Instr} (s : State) (command : i.format = .command) : ∃ t, exec i s = .next t :=
  exec_next_of_enabled (enabled_of_command s command)

/-- Settles O10: the statuses a command returns, by the table, and ILLEGAL for a word the port refuses. -/
theorem commandsAnswerTheirStatuses : Obligations.CommandsAnswerTheirStatuses := by
  unfold Obligations.CommandsAnswerTheirStatuses
  refine ⟨fun i s command => ?_, fun s t w rest h hs illegal ht => ?_⟩
  · obtain ⟨t, ht⟩ := exec_command_answers s command
    obtain ⟨u, st, d, rfl, returned, data⟩ := exec_command_responds command ht
    refine ⟨_, ht, fun notOk => ?_, ?_⟩
    · by_contra nonzero
      obtain ⟨rfl, -⟩ := data nonzero
      exact notOk rfl
    · cases st <;> simp_all [Status.returnedBy, Status.code]
  · rw [step_illegal h hs illegal] at ht
    cases ht
    exact ⟨rfl, rfl⟩

theorem response_status (s : State) : s.response.extractLsb' 32 8 = s.port.rspStatus :=
  BitVec.extractLsb'_append_eq_left

theorem response_data (s : State) : s.response.extractLsb' 0 32 = s.port.rspData :=
  BitVec.extractLsb'_append_eq_right

/-- Settles O11: the layout field by field, the data of the commands, and no other operation writes the port. -/
theorem onlyCommandsRespond : Obligations.OnlyCommandsRespond := by
  unfold Obligations.OnlyCommandsRespond
  refine ⟨fun s => ⟨response_status s, response_data s⟩, fun i s command => ?_, fun i s t other h => ?_⟩
  · obtain ⟨t, ht⟩ := exec_command_answers s command
    obtain ⟨u, st, d, rfl, -, data⟩ := exec_command_responds command ht
    refine ⟨_, ht, fun nonzero => ?_⟩
    obtain ⟨rfl, byRule⟩ := data nonzero
    exact ⟨rfl, byRule⟩
  · obtain ⟨-, -, -, -, port, -⟩ := everyElementHasItsWriters i s t h
    exact port other

end Sys2Proof.Machine
end

section
/-! The pseudo-operation OVERFLOW (30_encoding.md R102, 40_clock.md R124, 44_environment.md R201). -/

namespace Sys2Proof.Machine

/-- A run goes on from where its first part ends. -/
theorem runOps_append {ops more : List Instr} {s t : State} (h : runOps ops s = .next t) :
    runOps (ops ++ more) s = runOps more t := by
  induction ops generalizing s with
  | nil => cases h; rfl
  | cons i ops ih =>
    obtain ⟨u, hu, hr⟩ := runOps_cons.mp h
    simp only [List.cons_append, runOps, hu, ih hr]

theorem Timer.tick_of_lt {modulus : Nat} {t : Timer} (h : t.cnt + 1 < modulus) :
    t.tick modulus = { t with cnt := t.cnt + 1 } :=
  if_neg (by omega)

theorem Timer.tick_wraps {modulus : Nat} {t : Timer} (h : t.cnt + 1 = modulus) :
    t.tick modulus = { cnt := 0, ovf := true, ovfLost := t.ovfLost || t.ovf } :=
  if_pos (by omega)

/-- As many ticks as the counter lacks to its modulus end at the wrap (44_environment.md R201, R202). -/
theorem runOps_ticks_to_wrap {s : State} (run : s.ctl.tmrRun = true) (k : Nat)
    (h : s.tmr.cnt + (k + 1) = s.cfg.counterModulus) :
    runOps (pseudoTicks (k + 1)) s =
      .next { s with tmr := { cnt := 0, ovf := true, ovfLost := s.tmr.ovfLost || s.tmr.ovf } } := by
  induction k generalizing s with
  | zero =>
    refine runOps_cons.mpr ⟨_, exec_tmrTick.mpr ⟨run, rfl⟩, ?_⟩
    rw [Timer.tick_wraps h]
    rfl
  | succ k ih =>
    refine runOps_cons.mpr ⟨_, exec_tmrTick.mpr ⟨run, rfl⟩, ?_⟩
    rw [Timer.tick_of_lt (by omega)]
    exact ih run (by simp only; omega)

/-- Settles O16: the ticks set the overflow flag at the wrap, and the handler clears it again. -/
theorem overflowSequenceRuns : Obligations.OverflowSequenceRuns := by
  unfold Obligations.OverflowSequenceRuns
  intro s run enable noOverflow inRange
  obtain ⟨k, hk⟩ := Nat.exists_eq_add_of_lt inRange
  have ticks : s.cfg.counterModulus - s.tmr.cnt = k + 1 := by omega
  rw [pseudoOverflow, ticks, runOps_append (runOps_ticks_to_wrap run k hk.symm)]
  refine runOps_cons.mpr ⟨_, exec_irqTimer.mpr ⟨State.irqTimer_iff.mpr ⟨enable, rfl⟩, rfl⟩, ?_⟩
  simp [addPeriod, tmrStatusRead, noOverflow]

end Sys2Proof.Machine
end

section
/-! The assembler: the words of its lines and of its pseudo-operations (30_encoding.md R101, R102). -/

namespace Sys2Proof.Machine

/-- A byte operand is a numeral that any byte has (30_encoding.md R101). -/
@[simp] theorem byteOperand_setWidth (b : Byte) : byteOperand (b.setWidth 32) = some b := by
  have small : (b.setWidth 32).toNat < 2 ^ 8 := by simp; omega
  rw [byteOperand, if_pos small, BitVec.setWidth_setWidth_of_le _ (by decide), BitVec.setWidth_eq]

/-- A byte operand stands in the low byte of `arg1`, under zeros (30_encoding.md R96). -/
theorem packWord_byte (op : Byte) (a : Word) (b : Byte) : packWord op a (b.setWidth 32) = op ++ a ++ 0#24 ++ b := by
  apply BitVec.eq_of_getLsbD_eq
  intro i hi
  simp only [packWord, BitVec.getLsbD_append, BitVec.getLsbD_setWidth]
  by_cases low : i < 8
  · simp [low, show i < 32 by omega]
  · by_cases zero : i < 32
    · simp [low, zero, show i - 8 < 24 by omega, BitVec.getLsbD_of_ge b i (by omega)]
    · simp [low, zero, show ¬ (i - 8 < 24) by omega, show i - 8 - 24 = i - 32 by omega]

theorem encode_serRx (b : Byte) : encode (.serRx b) = 0x91#8 ++ 0#56 ++ b := by
  have zeros : (0x91#8 ++ 0#32 ++ 0#24 : BitVec 64) = 0x91#8 ++ 0#56 := by decide
  exact (packWord_byte 0x91 0 b).trans (congrArg (· ++ b) zeros)

theorem encode_memWr (a : Word) (b : Byte) : encode (.memWr a b) = 0x94#8 ++ a ++ 0#24 ++ b :=
  packWord_byte 0x94 a b

theorem assemble_serRx (b : Byte) : assemble "SER_RX" [b.setWidth 32] = some (.serRx b) := by
  simp [assemble]

theorem assemble_memWr (a : Word) (b : Byte) : assemble "MEM_WR" [a, b.setWidth 32] = some (.memWr a b) := by
  simp [assemble]

/-- What a lookup finds stands in the list under the key. -/
theorem mem_of_lookup {l : List (String × Instr)} {m : String} {i : Instr} (h : l.lookup m = some i) : (m, i) ∈ l := by
  obtain ⟨before, after, rfl, -⟩ := List.lookup_eq_some_iff.mp h
  simp

/-- A line assembles to an operation of its own mnemonic; `TICK` is POLL (30_encoding.md R101, R102). -/
theorem assemble_mnemonic {m : String} {operands : List Word} {i : Instr} (h : assemble m operands = some i) :
    m = i.mnemonic ∨ (m = "TICK" ∧ i = .poll) := by
  unfold assemble at h
  split at h
  · have named : ∀ line ∈ [("POP", Instr.pop), ("LEN", .len), ("NOW", .now), ("POLL", .poll), ("TICK", .poll),
        ("IRQ_SERIAL", .irqSerial), ("IRQ_TIMER", .irqTimer), ("TMR_TICK", .tmrTick), ("SER_LOAD", .serLoad),
        ("SER_DONE", .serDone)], line.1 = line.2.mnemonic ∨ (line.1 = "TICK" ∧ line.2 = .poll) := by decide
    exact named _ (mem_of_lookup h)
  · split_ifs at h with rdreg serRx
    · cases h
      exact .inl rdreg
    · obtain ⟨b, -, rfl⟩ := Option.map_eq_some_iff.mp h
      exact .inl serRx
  · split_ifs at h with init transmit memWr
    · cases h
      exact .inl init
    · cases h
      exact .inl transmit
    · obtain ⟨b, -, rfl⟩ := Option.map_eq_some_iff.mp h
      exact .inl memWr
  · exact nomatch h

theorem elapsedBetween_toNat (a b : Word) :
    ((elapsedBetween a b).toNat : Int) = ((b.toNat : Int) - a.toNat) % 2 ^ 32 := by
  rw [elapsedBetween, BitVec.toNat_sub]
  omega

/-- Settles O58: the printed words line by line, then the names and the expansions. -/
theorem assemblyGivesThePrintedWords : Obligations.AssemblyGivesThePrintedWords := by
  unfold Obligations.AssemblyGivesThePrintedWords
  refine ⟨fun a c b => ?_, fun m operands i => assemble_mnemonic, by decide, fun b => ?_, fun n => ?_, fun s => ?_,
    elapsedBetween_toNat⟩
  · rw [assemble_serRx, assemble_memWr, Option.map_some, Option.map_some, encode_serRx, encode_memWr]
    exact ⟨rfl, rfl, rfl, rfl, rfl, rfl, rfl, rfl, rfl, rfl, rfl, rfl, rfl, rfl, rfl⟩
  · rw [pseudoRx, List.map_cons, encode_serRx]
    rfl
  · exact List.map_replicate
  · rw [pseudoOverflow, List.map_append, pseudoTicks, List.map_replicate]
    rfl

end Sys2Proof.Machine
end

section
/-! The elapsed clock: NOW, the timer handler and the tick, and R126 along whole runs (40_clock.md). -/

namespace Sys2Proof.Machine

/-- The three terms of R120, each reduced modulo `2^32`: reducing the integer sum at its end is the same. -/
theorem clk_eq_add (c : Config) (acc : Word) (ovf : Bool) (cnt : Nat) :
    clk c acc ovf cnt =
      acc + BitVec.ofNat 32 (if ovf then c.overflowPeriodMs else 0) + BitVec.ofNat 32 (cnt / c.ticksPerMs) := by
  rw [clk, BitVec.ofNat_add, BitVec.ofNat_add, BitVec.ofNat_toNat, BitVec.setWidth_eq]

/-- The last counter value before the wrap stands one millisecond below a whole period (00_scope.md R9). -/
theorem lastTick_ms {c : Config} (h : c.wf) :
    (c.counterModulus - 1) / c.ticksPerMs + 1 = c.overflowPeriodMs := by
  obtain ⟨-, -, ticks, ⟨period, -⟩, exactPeriod⟩ := h
  have whole : 0 < c.ticksPerMs * c.overflowPeriodMs := Nat.mul_pos ticks period
  have last := Nat.mul_sub_div 0 c.ticksPerMs c.overflowPeriodMs whole
  rw [exactPeriod, Nat.mul_comm, last, Nat.zero_div]
  omega

/-- The period moves from the pending overflow into the accumulator (40_clock.md R123). -/
theorem elapsed_after_handler {s : State} (pending : s.tmr.ovf = true) :
    (addPeriod (tmrStatusRead s)).elapsed = s.elapsed := by
  simp [State.elapsed, clk_eq_add, pending]

/-- Settles O12: the response carries the elapsed time; at the last tick it is one below the next period. -/
theorem nowReportsElapsedTime : Obligations.NowReportsElapsedTime := by
  unfold Obligations.NowReportsElapsedTime
  refine fun s => ⟨fun before => ?_, fun live => ⟨s.elapsed, ?_, ?_, fun wf last noOverflow => ?_⟩⟩
  · exact ifInitialized_next.mpr (by rw [before]; rfl)
  · exact ifInitialized_next.mpr (by rw [live]; rfl)
  · exact BitVec.toNat_ofNat _ _
  · rw [State.elapsed, clk_eq_add, noOverflow, last, ← lastTick_ms wf, BitVec.ofNat_add]
    simp [add_sub_assoc]

/-- The handler stops while its line is 0 (10_state.md R51, log entry 4). -/
theorem exec_irqTimer_fault {s : State} (off : s.ctl.ovfIe = false ∨ s.tmr.ovf = false) :
    exec .irqTimer s = .fault .irqTimerNotEnabled :=
  ifEnabled_fault (Bool.and_eq_false_iff.mpr off)

/-- Settles O13: the handler's effect, and its line before and after it. -/
theorem timerHandlerAddsOnePeriod : Obligations.TimerHandlerAddsOnePeriod := by
  unfold Obligations.TimerHandlerAddsOnePeriod
  refine fun s => ⟨fun enable pending => ?_, exec_irqTimer_fault, fun inv before => ?_⟩
  · have line : s.irqTimer = true := State.irqTimer_iff.mpr ⟨enable, pending⟩
    exact ⟨_, _, exec_irqTimer.mpr ⟨line, rfl⟩, rfl, by simp, exec_irqTimer_fault (.inr rfl)⟩
  · exact exec_irqTimer_fault (.inl (inv.control.ovfEnable.trans before))

/-- The wrapping tick replaces the last millisecond of the period by the pending period (40_clock.md R123). -/
theorem elapsed_after_wrap {s : State} (wf : s.cfg.wf) (last : s.tmr.cnt + 1 = s.cfg.counterModulus)
    (noOverflow : s.tmr.ovf = false) :
    State.elapsed { s with tmr := s.tmr.tick s.cfg.counterModulus } = s.elapsed + 1 := by
  have cnt : s.tmr.cnt = s.cfg.counterModulus - 1 := by omega
  simp only [State.elapsed, clk_eq_add, Timer.tick_wraps last, noOverflow, cnt, if_true, ← lastTick_ms wf,
    BitVec.ofNat_add]
  simp [add_assoc]

/-- Settles O14: the handler moves the pending period, and the wrapping tick starts it. -/
theorem pendingOverflowIsCounted : Obligations.PendingOverflowIsCounted := by
  unfold Obligations.PendingOverflowIsCounted
  refine ⟨fun s t h => ?_, fun s t wf last noOverflow h => ?_⟩
  · obtain ⟨line, rfl⟩ := exec_irqTimer.mp h
    obtain ⟨-, pending⟩ := State.irqTimer_iff.mp line
    exact elapsed_after_handler pending
  · obtain ⟨-, rfl⟩ := exec_tmrTick.mp h
    have wraps : s.tmr.cnt + 1 = s.cfg.counterModulus := by
      obtain ⟨-, ⟨modulus, -⟩, -⟩ := wf
      omega
    exact ⟨by rw [Timer.tick_wraps wraps], rfl, elapsed_after_wrap wf wraps noOverflow⟩

/-- A property of what an observer has collected and of the state, kept by every operation, holds at the end of every
run. -/
theorem runOps_observe_induct {α : Type} {f : Instr → State → State → List α} {P : List α → State → Prop}
    (keep : ∀ (i : Instr) (l : List α) (s t : State), P l s → exec i s = .next t → P (l ++ f i s t) t)
    {ops : List Instr} {l : List α} {s t : State} (hs : P l s) (h : runOps ops s = .next t) :
    P (l ++ observe f ops s) t := by
  induction ops generalizing l s with
  | nil => cases h; simpa [observe] using hs
  | cons i ops ih =>
    obtain ⟨u, hu, hr⟩ := runOps_cons.mp h
    rw [observe_cons hu, ← List.append_assoc]
    exact ih (keep i l s u hs hu) hr

/-- The unreduced elapsed time `K*P + floor(V/T)` after `k` overflow events at the counter value `cnt` (40_clock.md
R126). -/
def unreducedMs (c : Config) (k cnt : Nat) : Nat := k * c.overflowPeriodMs + cnt / c.ticksPerMs

/-- R126 as an invariant: the clock is exact after `k` overflow events while none was missed. INIT, which clears the
accumulator, finds it cleared. -/
structure ClockInv (c : Config) (k : Nat) (s : State) : Prop where
  config : s.cfg = c
  counter : s.tmr.cnt < c.counterModulus
  beforeInit : s.ctl.initialized = false → s.ctl.ovfIe = false ∧ s.accMs = 0
  exact : s.tmr.ovfLost = false → s.elapsed = BitVec.ofNat 32 (unreducedMs c k s.tmr.cnt)

theorem resetWith_clockInv {c : Config} (wf : c.wf) : ClockInv c 0 (State.resetWith c) where
  config := rfl
  counter := by
    obtain ⟨-, ⟨modulus, -⟩, -⟩ := wf
    exact modulus
  beforeInit _ := ⟨rfl, rfl⟩
  exact _ := by simp [State.elapsed, clk_eq_add, unreducedMs]

/-- Only the tick and the timer handler move the clock (20_memory.md R73); INIT clears an accumulator that is 0. -/
theorem exec_keeps_clock {i : Instr} {s t : State} (cleared : s.ctl.initialized = false → s.accMs = 0)
    (h : exec i s = .next t) (noTick : i ≠ .tmrTick) (noHandler : i ≠ .irqTimer) :
    t.accMs = s.accMs ∧ t.tmr = s.tmr := by
  obtain ⟨-, -, -, -, -, -, -, acc, -, -, -, -, -, tmr, -⟩ := everyElementHasItsWriters i s t h
  refine ⟨?_, tmr noTick noHandler⟩
  by_cases init : ∃ n d, i = .init n d
  · obtain ⟨n, d, rfl⟩ := init
    rcases exec_init h with ⟨-, rfl⟩ | ⟨before, rfl⟩
    · rfl
    · exact (cleared before).symm
  · exact acc (fun n d e => init ⟨n, d, e⟩) noHandler

/-- Before INIT the handler is off and the accumulator is 0; every operation keeps that (40_clock.md R124). -/
theorem exec_keeps_beforeInit {i : Instr} {s t : State}
    (inv : s.ctl.initialized = false → s.ctl.ovfIe = false ∧ s.accMs = 0) (h : exec i s = .next t)
    (before : t.ctl.initialized = false) : t.ctl.ovfIe = false ∧ t.accMs = 0 := by
  obtain ⟨-, -, -, -, -, -, ctl, acc, -⟩ := everyElementHasItsWriters i s t h
  have noInit : ∀ n d, i ≠ .init n d := by
    rintro n d rfl
    rcases exec_init h with ⟨live, rfl⟩ | ⟨-, rfl⟩
    · exact nomatch before.symm.trans live
    · exact nomatch before
  rw [ctl noInit] at before ⊢
  obtain ⟨enable, cleared⟩ := inv before
  have noHandler : i ≠ .irqTimer := by
    rintro rfl
    obtain ⟨line, -⟩ := exec_irqTimer.mp h
    obtain ⟨on, -⟩ := State.irqTimer_iff.mp line
    exact nomatch enable.symm.trans on
  exact ⟨enable, (acc noInit noHandler).trans cleared⟩

/-- What one step does to the clock when it moves on by `d` milliseconds: the counter stays in range, the unreduced
time moves by `d`, and so does the elapsed time unless an overflow was missed. -/
structure ClockMoves (i : Instr) (s t : State) (d : Nat) : Prop where
  counter : t.tmr.cnt < s.cfg.counterModulus
  unreduced : ∀ k, unreducedMs s.cfg (k + (overflowEvent i s t).length) t.tmr.cnt = unreducedMs s.cfg k s.tmr.cnt + d
  elapsed : t.tmr.ovfLost = false → s.tmr.ovfLost = false ∧ t.elapsed = s.elapsed + BitVec.ofNat 32 d

/-- Every operation but the tick leaves the time where it is. -/
theorem ClockMoves.zero {i : Instr} {s t : State} (counter : s.tmr.cnt < s.cfg.counterModulus) (noTick : i ≠ .tmrTick)
    (cnt : t.tmr.cnt = s.tmr.cnt) (lost : t.tmr.ovfLost = s.tmr.ovfLost) (elapsed : t.elapsed = s.elapsed) :
    ClockMoves i s t 0 where
  counter := cnt ▸ counter
  unreduced k := by simp [overflowEvent, noTick, cnt]
  elapsed h := ⟨lost ▸ h, by simp [elapsed]⟩

/-- A tick below the wrap counts on within a millisecond or into the next one (44_environment.md R201). -/
theorem ClockMoves.tick {s : State} (below : s.tmr.cnt + 1 < s.cfg.counterModulus) :
    ClockMoves .tmrTick s { s with tmr := s.tmr.tick s.cfg.counterModulus }
      (if s.cfg.ticksPerMs ∣ s.tmr.cnt + 1 then 1 else 0) := by
  have noWrap : s.tmr.cnt ≠ s.cfg.counterModulus - 1 := by omega
  rw [Timer.tick_of_lt below]
  exact
    { counter := below
      unreduced := fun k => by simp [overflowEvent, noWrap, unreducedMs, Nat.succ_div, add_assoc]
      elapsed := fun h => ⟨h, by
        rw [State.elapsed, State.elapsed, clk_eq_add, clk_eq_add, Nat.succ_div, BitVec.ofNat_add, add_assoc,
          add_assoc, add_assoc]⟩ }

/-- The wrapping tick moves the time on by one millisecond (40_clock.md R126). -/
theorem ClockMoves.wrap {s : State} (wf : s.cfg.wf) (last : s.tmr.cnt + 1 = s.cfg.counterModulus) :
    ClockMoves .tmrTick s { s with tmr := s.tmr.tick s.cfg.counterModulus } 1 where
  counter := by simp only [Timer.tick_wraps last]; omega
  unreduced k := by
    have cnt : s.tmr.cnt = s.cfg.counterModulus - 1 := by omega
    have period := lastTick_ms wf
    simp only [overflowEvent, unreducedMs, Timer.tick_wraps last, cnt, and_self, if_true, List.length_singleton,
      Nat.zero_div, Nat.succ_mul]
    omega
  elapsed h := by
    rw [Timer.tick_wraps last] at h
    obtain ⟨lost, noOverflow⟩ := Bool.or_eq_false_iff.mp h
    exact ⟨lost, elapsed_after_wrap wf last noOverflow⟩

/-- Every step moves the clock on by at most one millisecond (40_clock.md R126). -/
theorem ClockInv.exec_moves {c : Config} {k : Nat} {i : Instr} {s t : State} (inv : ClockInv c k s) (wf : c.wf)
    (h : exec i s = .next t) : ∃ d ≤ 1, ClockMoves i s t d := by
  obtain ⟨rfl, counter, beforeInit, -⟩ := inv
  by_cases tick : i = .tmrTick
  · subst tick
    obtain ⟨-, rfl⟩ := exec_tmrTick.mp h
    rcases Nat.lt_or_eq_of_le counter with below | last
    · exact ⟨_, by split <;> omega, .tick below⟩
    · exact ⟨1, le_rfl, .wrap wf last⟩
  refine ⟨0, Nat.zero_le 1, ?_⟩
  by_cases handler : i = .irqTimer
  · subst handler
    obtain ⟨line, rfl⟩ := exec_irqTimer.mp h
    obtain ⟨-, pending⟩ := State.irqTimer_iff.mp line
    exact .zero counter tick rfl rfl (elapsed_after_handler pending)
  · obtain ⟨acc, tmr⟩ := exec_keeps_clock (fun before => (beforeInit before).2) h tick handler
    obtain ⟨cfg, -⟩ := everyElementHasItsWriters i s t h
    exact .zero counter tick (by rw [tmr]) (by rw [tmr]) (by rw [State.elapsed, cfg, acc, tmr, State.elapsed])

/-- The invariant goes on along a step, its count by the overflow events of the step. -/
theorem ClockInv.after_exec {c : Config} {k : Nat} {i : Instr} {s t : State} (inv : ClockInv c k s) (wf : c.wf)
    (h : exec i s = .next t) : ClockInv c (k + (overflowEvent i s t).length) t := by
  obtain ⟨d, -, moves⟩ := inv.exec_moves wf h
  obtain ⟨rfl, -, beforeInit, exactBefore⟩ := inv
  obtain ⟨cfg, -⟩ := everyElementHasItsWriters i s t h
  refine ⟨cfg, moves.counter, exec_keeps_beforeInit beforeInit h, fun lost => ?_⟩
  obtain ⟨lostBefore, elapsed⟩ := moves.elapsed lost
  rw [elapsed, exactBefore lostBefore, moves.unreduced, BitVec.ofNat_add]

/-- After every run from reset the clock is exact for the overflow events of the run. -/
theorem runOps_clockInv {c : Config} {ops : List Instr} {t : State} (wf : c.wf)
    (h : runOps ops (State.resetWith c) = .next t) :
    ClockInv c (observe overflowEvent ops (State.resetWith c)).length t :=
  runOps_observe_induct (P := fun events s => ClockInv c events.length s) (l := [])
    (fun _ _ _ _ inv step => by rw [List.length_append]; exact inv.after_exec wf step) (resetWith_clockInv wf) h

/-- Settles O15: the invariant at both ends of the last step, and what that step moves. -/
theorem elapsedTimeIsExactAndMonotone : Obligations.ElapsedTimeIsExactAndMonotone := by
  unfold Obligations.ElapsedTimeIsExactAndMonotone
  rintro c ops i t u before after wf run h lost rfl rfl
  have inv := runOps_clockInv wf run
  rw [observe_snoc run h, List.length_append]
  obtain ⟨d, small, moves⟩ := inv.exec_moves wf h
  obtain ⟨lostBefore, -⟩ := moves.elapsed lost
  have unreduced := moves.unreduced (observe overflowEvent ops (State.resetWith c)).length
  rw [inv.config, unreducedMs, unreducedMs] at unreduced
  refine ⟨inv.exact lostBefore, (inv.after_exec wf h).exact lost, ?_, ?_⟩ <;> omega

end Sys2Proof.Machine
end

section
/-! The receive ring: its occupancy, and its indices as positions of the byte stream (41_ring.md R140, R141). -/

namespace Sys2Proof.Machine

section occupancy

variable {c : Nat} {r : Ring}

/-- The ring holds at most `CAPACITY` bytes (41_ring.md R140). -/
theorem Ring.occ_le (head : r.head < c) (tail : r.tail < c) : r.occ c ≤ c := by
  rw [Ring.occ_of_lt head tail]
  split_ifs <;> omega

/-- The source's congruence (41_ring.md R140). -/
theorem Ring.occ_emod (positive : 0 < c) (r : Ring) : (r.occ c : Int) % c = ((r.head : Int) - r.tail) % c := by
  unfold Ring.occ
  split_ifs with index lap
  · simp [index]
  · simp [index]
  · rw [Int.toNat_of_nonneg (Int.emod_nonneg _ (by omega)), Int.emod_emod]

/-- Empty in the occupancy form (41_ring.md R140). -/
theorem Ring.isEmpty_iff_occ (head : r.head < c) (tail : r.tail < c) : r.isEmpty = true ↔ r.occ c = 0 := by
  rw [Ring.isEmpty_iff, Ring.occ_of_lt head tail]
  split_ifs <;> simp_all <;> omega

/-- Full in the occupancy form (41_ring.md R140). -/
theorem Ring.isFull_iff_occ (head : r.head < c) (tail : r.tail < c) : r.isFull = true ↔ r.occ c = c := by
  rw [Ring.isFull_iff, Ring.occ_of_lt head tail]
  split_ifs <;> simp_all <;> omega

end occupancy

/-- Settles O17: the two forms of empty and full agree, and a one-slot ring has the index 0 alone. -/
theorem occupancyMatchesIndices : Obligations.OccupancyMatchesIndices := by
  unfold Obligations.OccupancyMatchesIndices
  intro c r head tail
  have positive : 0 < c := by omega
  exact ⟨Ring.occ_le head tail, Ring.occ_emod positive r, Ring.isEmpty_iff_occ head tail, Ring.isEmpty_iff r,
    Ring.isFull_iff_occ head tail, Ring.isFull_iff r, by omega⟩

/-- The index and the lap bit that stand at position `n` of the byte stream, counted from reset (41_ring.md R141). -/
def indexAt (c n : Nat) : Nat × Bool := (n % c, decide (n / c % 2 = 1))

/-- The lap bit is the parity of the lap. -/
theorem oddLap_succ (q : Nat) : decide ((q + 1) % 2 = 1) = !decide (q % 2 = 1) := by
  rw [← decide_not]
  exact decide_eq_decide.mpr (by omega)

/-- Advancing moves on by one position of the stream (41_ring.md R141). -/
theorem adv_indexAt {c : Nat} (positive : 0 < c) (n : Nat) :
    adv c (indexAt c n).1 (indexAt c n).2 = indexAt c (n + 1) := by
  have inRange : n % c < c := Nat.mod_lt n positive
  have atWrap : c ∣ n + 1 ↔ n % c = c - 1 := by
    rw [Nat.dvd_iff_mod_eq_zero, ← Nat.mod_add_mod, ← Nat.dvd_iff_mod_eq_zero]
    exact ⟨fun whole => by have := Nat.le_of_dvd (by omega) whole; omega, fun last => ⟨1, by omega⟩⟩
  refine Prod.ext ?_ ?_
  · exact (adv_fst_mod _ inRange).trans (Nat.mod_add_mod n c 1)
  · simp only [adv_snd, indexAt, Nat.succ_div, atWrap]
    split
    · exact (oddLap_succ _).symm
    · rfl

theorem iterate_adv_indexAt {c : Nat} (positive : 0 < c) (k n : Nat) :
    (fun p : Nat × Bool => adv c p.1 p.2)^[k] (indexAt c n) = indexAt c (n + k) := by
  induction k with
  | zero => rfl
  | succ k ih => rw [Function.iterate_succ_apply', ih, adv_indexAt positive, Nat.add_assoc]

/-- Every index in range, with either lap bit, stands at a position of the first two laps. -/
theorem indexAt_lap {c i : Nat} (h : i < c) (lap : Bool) : indexAt c (i + if lap then c else 0) = (i, lap) := by
  cases lap <;> simp [indexAt, Nat.mod_eq_of_lt h, Nat.div_eq_of_lt h, Nat.add_div_right _ (Nat.zero_lt_of_lt h)]

/-- One lap further the index is the same and the lap bit is the other (41_ring.md R141). -/
theorem indexAt_add_capacity {c : Nat} (positive : 0 < c) (n : Nat) :
    indexAt c (n + c) = ((indexAt c n).1, !(indexAt c n).2) := by
  rw [indexAt, indexAt, Nat.add_mod_right, Nat.add_div_right n positive, oddLap_succ]

theorem iterate_adv_capacity {c i : Nat} (h : i < c) (lap : Bool) :
    (fun p : Nat × Bool => adv c p.1 p.2)^[c] (i, lap) = (i, !lap) := by
  have positive : 0 < c := Nat.zero_lt_of_lt h
  have lapLater := iterate_adv_indexAt positive c (i + if lap then c else 0)
  rwa [indexAt_add_capacity positive, indexAt_lap h] at lapLater

/-- Settles O18: advancing moves along the stream's positions, and a lap is `CAPACITY` of them. -/
theorem advancingCyclesIndexAndLap : Obligations.AdvancingCyclesIndexAndLap := by
  unfold Obligations.AdvancingCyclesIndexAndLap
  intro c i lap h
  refine ⟨rfl, adv_fst_mod lap h, iterate_adv_capacity h lap, ?_⟩
  rw [Nat.two_mul, Function.iterate_add_apply, iterate_adv_capacity h, iterate_adv_capacity h, Bool.not_not]

end Sys2Proof.Machine
end

section
/-! PUSH, POP and LEN as operations answer them (41_ring.md, 43_controller.md R191). -/

namespace Sys2Proof.Machine

/-- PUSH writes the slot at `head` alone (41_ring.md R142). -/
theorem Ring.slot_accept (c : Nat) (r : Ring) (b : Byte) (k : Nat) :
    (r.accept c b).slot k = if k = r.head then b else r.slot k := by
  simp only [Ring.slot, Ring.accept_slots, Memory.lookup_write]
  split <;> rfl

/-- Settles O19: the check, then the two branches of POP. -/
theorem popTakesTheOldestByte : Obligations.PopTakesTheOldestByte := by
  unfold Obligations.PopTakesTheOldestByte
  refine fun s => ⟨fun before => ?_, fun live isEmpty => ?_, fun live notEmpty => ?_⟩
  · exact ifInitialized_next.mpr (by rw [before]; rfl)
  · exact ifInitialized_next.mpr (by rw [live, (Ring.isEmpty_iff _).mpr isEmpty]; rfl)
  · refine ⟨(s.ring.slot s.ring.tail).setWidth 32, BitVec.toNat_setWidth_of_le (by omega),
      ifInitialized_next.mpr ?_⟩
    rw [live, if_neg (mt (Ring.isEmpty_iff _).mp notEmpty), ← adv_fst, ← adv_snd]
    rfl

/-- RDREG of a register answers its value (43_controller.md R188). -/
theorem exec_rdreg_of_register {n v : Word} {s : State} (register : readReg s n.toNat = some v) :
    exec (.rdreg n) s = .next (respond s .ok v) := by
  simp only [exec, execRdreg, register]

/-- Settles O20: the occupancy is at most `CAPACITY`, so a 32-bit response holds it whole. -/
theorem lenReportsOccupancy : Obligations.LenReportsOccupancy := by
  unfold Obligations.LenReportsOccupancy
  refine fun s => ⟨fun before => ?_, fun live inv => ?_⟩
  · exact ifInitialized_next.mpr (by rw [before]; rfl)
  · obtain ⟨⟨-, capacity⟩, -⟩ := inv.config
    have head := inv.ring.headRange
    have tail := inv.ring.tailRange
    have whole : (BitVec.ofNat 32 (s.ring.occ s.cfg.capacity)).toNat = s.ring.occ s.cfg.capacity :=
      (BitVec.toNat_ofNat _ _).trans (Nat.mod_eq_of_lt (Nat.lt_of_le_of_lt (Ring.occ_le head tail) capacity))
    refine ⟨_, whole, ifInitialized_next.mpr (by rw [live]; rfl), exec_rdreg_of_register rfl, fun index lap => ?_⟩
    exact whole.trans ((Ring.isFull_iff_occ head tail).mp ((Ring.isFull_iff _).mpr ⟨index, lap⟩))

/-- TXSTEP writes no ring (42_txseq.md R165). -/
@[simp] theorem serveTx_ring (s : State) : (serveTx s).ring = s.ring := by
  rw [serveTx_frame]

/-- TXSTEP reads no byte from the peripheral (42_txseq.md R165). -/
@[simp] theorem serveTx_rxReady (s : State) : (serveTx s).ser.rxReady = s.ser.rxReady := by
  rw [serveTx_frame]

/-- With the RX condition on, the handler reads the byte and pushes it (43_controller.md R191). -/
theorem serveRx_of_rxCondition {s : State} (on : s.rxCondition = true) :
    serveRx s = { serRead s with ring := s.ring.push s.cfg.capacity s.ser.rdr } :=
  if_pos on

theorem State.txCondition_iff {s : State} : s.txCondition = true ↔ s.tx.ie = true ∧ s.ser.thr = none := by
  simp [State.txCondition, Serial.txReady_iff]

/-- With the TX condition off, the handler's TX part does nothing (43_controller.md R191). -/
theorem serveTx_of_not_txCondition {s : State} (off : ¬ (s.tx.ie = true ∧ s.ser.thr = none)) : serveTx s = s :=
  if_neg (mt State.txCondition_iff.mp off)

/-- Settles O21: the RX part pushes the byte, and the TX part leaves the ring alone. -/
theorem receivedByteIsPushedOrCounted : Obligations.ReceivedByteIsPushedOrCounted := by
  unfold Obligations.ReceivedByteIsPushedOrCounted
  intro s enable ready
  have rx : s.rxCondition = true := Bool.and_eq_true_iff.mpr ⟨enable, ready⟩
  refine ⟨serveTx (serveRx s), exec_irqSerial.mpr ⟨State.irqSerial_iff.mpr (.inl ⟨enable, ready⟩), rfl⟩, ?_⟩
  rw [serveTx_rxReady, serveTx_ring, serveRx_of_rxCondition rx]
  refine ⟨rfl, fun full => ?_, fun notFull => ?_, fun off => ?_⟩
  · exact if_pos ((Ring.isFull_iff _).mpr full)
  · have stored : s.ring.push s.cfg.capacity s.ser.rdr = s.ring.accept s.cfg.capacity s.ser.rdr :=
      if_neg (mt (Ring.isFull_iff _).mp notFull)
    rw [stored, ← adv_fst, ← adv_snd]
    exact ⟨rfl, Ring.slot_accept _ _ _⟩
  · rw [serveTx_of_not_txCondition (by rcases off with off | off <;> simp [off])]
    rfl

end Sys2Proof.Machine
end

section
/-! First in, first out: what each step does to the unread bytes, and R147 along every run (41_ring.md). -/

namespace Sys2Proof.Machine

/-- Indices in range whose lap bits say which one is ahead (70_reset_and_hazards.md R270, R271). -/
structure Ring.Ordered (c : Nat) (r : Ring) : Prop where
  headRange : r.head < c
  tailRange : r.tail < c
  aheadSameLap : r.tail < r.head → r.headLap = r.tailLap
  behindOtherLap : r.head < r.tail → r.headLap ≠ r.tailLap

theorem RingInv.ordered {s : State} (h : RingInv s) : s.ring.Ordered s.cfg.capacity :=
  ⟨h.headRange, h.tailRange, h.aheadSameLap, h.behindOtherLap⟩

section ordered

variable {c : Nat} {r : Ring}

/-- The unread bytes reach from `tail` to `head`, which stands one lap later where the lap bits differ. -/
theorem Ring.Ordered.tail_add_occ (h : r.Ordered c) :
    r.tail + r.occ c = if r.headLap = r.tailLap then r.head else r.head + c := by
  obtain ⟨head, tail, ahead, behind⟩ := h
  rw [Ring.occ_of_lt head tail]
  rcases Nat.lt_trichotomy r.tail r.head with order | order | order
  · rw [if_neg order.ne', if_pos order.le, if_pos (ahead order)]; omega
  · simp only [order, if_true]; split <;> rfl
  · rw [if_neg order.ne, if_neg (by omega), if_neg (behind order)]; omega

/-- The next free slot is `head`. -/
theorem Ring.Ordered.tail_add_occ_mod (h : r.Ordered c) : (r.tail + r.occ c) % c = r.head := by
  rw [h.tail_add_occ]
  split <;> simp [Nat.mod_eq_of_lt h.headRange]

theorem Ring.Ordered.occ_lt (h : r.Ordered c) (notFull : r.isFull = false) : r.occ c < c :=
  Nat.lt_of_le_of_ne (Ring.occ_le h.headRange h.tailRange) fun full =>
    nomatch notFull.symm.trans ((Ring.isFull_iff_occ h.headRange h.tailRange).mpr full)

theorem Ring.Ordered.occ_pos (h : r.Ordered c) (notEmpty : r.isEmpty = false) : 0 < r.occ c :=
  Nat.pos_of_ne_zero fun noByte =>
    nomatch notEmpty.symm.trans ((Ring.isEmpty_iff_occ h.headRange h.tailRange).mpr noByte)

/-- An unread slot of a ring that is not full is not the next free one. -/
theorem Ring.Ordered.unread_ne_head (h : r.Ordered c) (notFull : r.isFull = false) {k : Nat} (unread : k < r.occ c) :
    (r.tail + k) % c ≠ r.head := by
  intro same
  rw [← h.tail_add_occ_mod] at same
  have room := h.occ_lt notFull
  have equal : k = r.occ c := (Nat.ModEq.add_left_cancel' r.tail same).eq_of_lt_of_lt (unread.trans room) room
  omega

/-- Conversely, a ring whose `head` stands `n` positions after `tail` is ordered and holds `n` bytes. -/
theorem Ring.ordered_of_tail_add {n : Nat} (head : r.head < c) (tail : r.tail < c) (most : n ≤ c)
    (position : r.tail + n = if r.headLap = r.tailLap then r.head else r.head + c) : r.Ordered c ∧ r.occ c = n := by
  rw [Ring.occ_of_lt head tail]
  by_cases lap : r.headLap = r.tailLap
  · rw [if_pos lap] at position
    exact ⟨⟨head, tail, fun _ => lap, by omega⟩, by simp only [lap, if_true]; split_ifs <;> omega⟩
  · rw [if_neg lap] at position
    exact ⟨⟨head, tail, by omega, fun _ => lap⟩, by simp only [lap, if_false]; split_ifs <;> omega⟩

/-- Dropping a byte moves no index (41_ring.md R142). -/
theorem Ring.Ordered.drop (h : r.Ordered c) : r.drop.Ordered c :=
  ⟨h.headRange, h.tailRange, h.aheadSameLap, h.behindOtherLap⟩

/-- Storing a byte moves `head` one position on (41_ring.md R142). -/
theorem Ring.Ordered.accept (h : r.Ordered c) (notFull : r.isFull = false) (b : Byte) :
    (r.accept c b).Ordered c ∧ (r.accept c b).occ c = r.occ c + 1 := by
  have position := h.tail_add_occ
  have room := h.occ_lt notFull
  have tail := h.tailRange
  refine Ring.ordered_of_tail_add (adv_lt _ h.headRange) tail room ?_
  simp only [Ring.accept_head, Ring.accept_headLap, Ring.accept_tail, Ring.accept_tailLap, adv_fst, adv_snd]
  by_cases wrap : r.head = c - 1 <;> by_cases lap : r.headLap = r.tailLap <;> simp [wrap, lap] at position ⊢ <;> omega

/-- Removing a byte moves `tail` one position on (41_ring.md R146). -/
theorem Ring.Ordered.remove (h : r.Ordered c) (notEmpty : r.isEmpty = false) :
    (r.remove c).Ordered c ∧ (r.remove c).occ c = r.occ c - 1 := by
  have position := h.tail_add_occ
  have most := Ring.occ_le h.headRange h.tailRange
  have held := h.occ_pos notEmpty
  have head := h.headRange
  refine Ring.ordered_of_tail_add head (adv_lt _ h.tailRange) (by omega) ?_
  simp only [Ring.remove_head, Ring.remove_headLap, Ring.remove_tail, Ring.remove_tailLap, adv_fst, adv_snd]
  by_cases wrap : r.tail = c - 1 <;> by_cases lap : r.headLap = r.tailLap <;>
    simp [wrap, lap, Bool.eq_not_iff] at position ⊢ <;> omega

/-- The unread bytes of a ring, oldest first (10_state.md R23): `State.unread`, said of the ring alone. -/
def Ring.unread (c : Nat) (r : Ring) : List Byte := (List.range (r.occ c)).map fun k => r.slot ((r.tail + k) % c)

theorem State.unread_eq (s : State) : s.unread = s.ring.unread s.cfg.capacity := rfl

theorem Ring.unread_of_isEmpty (c : Nat) (h : r.isEmpty = true) : r.unread c = [] := by
  rw [Ring.unread, Ring.occ_of_isEmpty c h]; rfl

/-- A dropped byte is not stored (41_ring.md R143). -/
theorem Ring.unread_drop (c : Nat) (r : Ring) : r.drop.unread c = r.unread c := rfl

/-- A stored byte is the youngest unread one (41_ring.md R142). -/
theorem Ring.Ordered.unread_accept (h : r.Ordered c) (notFull : r.isFull = false) (b : Byte) :
    (r.accept c b).unread c = r.unread c ++ [b] := by
  obtain ⟨-, occ⟩ := h.accept notFull b
  have youngest : (r.accept c b).slot ((r.tail + r.occ c) % c) = b := by
    rw [h.tail_add_occ_mod, Ring.slot_accept, if_pos rfl]
  have older : ∀ k ∈ List.range (r.occ c),
      (r.accept c b).slot ((r.tail + k) % c) = r.slot ((r.tail + k) % c) := fun k unread => by
    rw [Ring.slot_accept, if_neg (h.unread_ne_head notFull (List.mem_range.mp unread))]
  rw [Ring.unread, occ, List.range_succ, List.map_append, Ring.accept_tail, List.map_congr_left older,
    List.map_singleton, youngest, Ring.unread]

/-- The removed byte is the oldest unread one (41_ring.md R146). -/
theorem Ring.Ordered.unread_remove (h : r.Ordered c) (notEmpty : r.isEmpty = false) :
    r.unread c = r.slot r.tail :: (r.remove c).unread c := by
  obtain ⟨-, occ⟩ := h.remove notEmpty
  have one : r.occ c = (r.remove c).occ c + 1 := by have := h.occ_pos notEmpty; omega
  have younger : ∀ k, (r.tail + (k + 1)) % c = ((r.remove c).tail + k) % c := fun k => by
    rw [Ring.remove_tail, adv_fst_mod _ h.tailRange, Nat.mod_add_mod, Nat.add_assoc, Nat.add_comm 1 k]
  rw [Ring.unread, one, List.range_succ_eq_map, List.map_cons, List.map_map, Nat.add_zero, Nat.mod_eq_of_lt h.tailRange]
  simp only [Function.comp_def, Nat.succ_eq_add_one, younger]
  rfl

end ordered

/-- The bytes that enter, miss and leave the ring in a step (41_ring.md R142, R143, R145). -/
structure RingTraffic (i : Instr) (s t : State) (accepted dropped returned : List Byte) : Prop where
  accepted : acceptedByte i s t = accepted
  dropped : droppedByte i s t = dropped
  returned : returnedByte i s t = returned

/-- All that a step can do to the ring (20_memory.md R73), with the bytes an observer sees of it. -/
inductive RingMove (i : Instr) (s t : State) : Prop
  | keep (ring : t.ring = s.ring) (traffic : RingTraffic i s t [] [] [])
  | clear (before : s.ctl.initialized = false)
      (ring : t.ring = { s.ring with head := 0, headLap := false, tail := 0, tailLap := false })
      (traffic : RingTraffic i s t [] [] [])
  | accept (enable : s.ctl.rxIe = true) (notFull : s.ring.isFull = false)
      (ring : t.ring = s.ring.accept s.cfg.capacity s.ser.rdr) (traffic : RingTraffic i s t [s.ser.rdr] [] [])
  | drop (enable : s.ctl.rxIe = true) (full : s.ring.isFull = true)
      (ring : t.ring = s.ring.drop) (traffic : RingTraffic i s t [] [s.ser.rdr] [])
  | remove (live : s.ctl.initialized = true) (notEmpty : s.ring.isEmpty = false)
      (ring : t.ring = s.ring.remove s.cfg.capacity)
      (traffic : RingTraffic i s t [] [] [s.ring.slot s.ring.tail])

/-- POP's part of `exec_ringMove`. -/
theorem exec_pop_ringMove {s t : State} (h : exec .pop s = .next t) : RingMove .pop s t := by
  rcases exec_pop h with ⟨-, rfl⟩ | ⟨-, -, rfl⟩ | ⟨live, notEmpty, rfl⟩
  · exact .keep rfl ⟨rfl, rfl, rfl⟩
  · exact .keep rfl ⟨rfl, rfl, rfl⟩
  · refine .remove live notEmpty rfl ?_
    have whole : ((s.ring.slot s.ring.tail).setWidth 32).setWidth 8 = s.ring.slot s.ring.tail := by simp
    constructor <;> simp [acceptedByte, droppedByte, returnedByte, whole]

/-- The serial handler's part of `exec_ringMove`. -/
theorem exec_irqSerial_ringMove {s t : State} (h : exec .irqSerial s = .next t) : RingMove .irqSerial s t := by
  obtain ⟨-, rfl⟩ := exec_irqSerial.mp h
  rcases serveRx_cases s with ⟨off, rx⟩ | ⟨on, rx⟩
  · refine .keep (by rw [serveTx_ring, rx]) ?_
    constructor <;> simp [acceptedByte, droppedByte, returnedByte, off]
  · obtain ⟨enable, -⟩ := Bool.and_eq_true_iff.mp on
    rcases Ring.push_cases s.cfg.capacity s.ring s.ser.rdr with ⟨full, push⟩ | ⟨notFull, push⟩
    · refine .drop enable full (by rw [serveTx_ring, rx, push]) ?_
      constructor <;> simp [acceptedByte, droppedByte, returnedByte, on, full]
    · refine .accept enable notFull (by rw [serveTx_ring, rx, push]) ?_
      constructor <;> simp [acceptedByte, droppedByte, returnedByte, on, notFull]

/-- Only INIT, POP and the serial handler write the ring (20_memory.md R73). -/
theorem exec_keeps_ring {i : Instr} {s t : State} (h : exec i s = .next t) (noInit : ∀ n d, i ≠ .init n d)
    (noPop : i ≠ .pop) (noHandler : i ≠ .irqSerial) : t.ring = s.ring := by
  obtain ⟨-, -, -, -, -, -, -, -, producer, store, consumer, -⟩ := everyElementHasItsWriters i s t h
  obtain ⟨head, headLap⟩ := producer noInit noHandler
  obtain ⟨slots, overrunCnt, overrun⟩ := store noHandler
  obtain ⟨tail, tailLap⟩ := consumer noInit noPop
  calc t.ring = ⟨t.ring.slots, t.ring.head, t.ring.headLap, t.ring.tail, t.ring.tailLap, t.ring.overrunCnt,
        t.ring.overrun⟩ := rfl
    _ = s.ring := by rw [head, headLap, tail, tailLap, slots, overrunCnt, overrun]

/-- Every step makes one of the moves. -/
theorem exec_ringMove {i : Instr} {s t : State} (h : exec i s = .next t) : RingMove i s t := by
  cases i with
  | init n d =>
    rcases exec_init h with ⟨-, rfl⟩ | ⟨before, rfl⟩
    · exact .keep rfl ⟨rfl, rfl, rfl⟩
    · exact .clear before rfl ⟨rfl, rfl, rfl⟩
  | pop => exact exec_pop_ringMove h
  | irqSerial => exact exec_irqSerial_ringMove h
  | len | transmit | now | poll | rdreg | irqTimer | tmrTick | serRx | serLoad | serDone | memWr =>
    exact .keep (exec_keeps_ring h nofun nofun nofun) ⟨rfl, rfl, rfl⟩

/-- What R147 needs of a state: an ordered ring, which before INIT is empty and takes no byte. -/
structure FifoInv (s : State) : Prop where
  ordered : s.ring.Ordered s.cfg.capacity
  beforeInit : s.ctl.initialized = false → s.ctl.rxIe = false ∧ s.ring.isEmpty = true

theorem State.Inv.fifoInv {s : State} (h : s.Inv) : FifoInv s where
  ordered := h.ring.ordered
  beforeInit before := by
    have asReset := h.control.beforeInit before
    refine ⟨h.control.rxEnable.trans before, ?_⟩
    rw [asReset]
    rfl

/-- The ring stays ordered along every step (70_reset_and_hazards.md R270, R271). -/
theorem FifoInv.exec_ordered {i : Instr} {s t : State} (inv : FifoInv s) (h : exec i s = .next t) :
    t.ring.Ordered s.cfg.capacity := by
  have ordered := inv.ordered
  cases exec_ringMove h with
  | keep ring => rwa [ring]
  | clear _ ring =>
    have positive : 0 < s.cfg.capacity := Nat.zero_lt_of_lt ordered.headRange
    rw [ring]
    exact ⟨positive, positive, fun _ => rfl, fun ahead => absurd ahead (lt_irrefl 0)⟩
  | accept _ notFull ring =>
    obtain ⟨kept, -⟩ := ordered.accept notFull s.ser.rdr
    rwa [ring]
  | drop _ _ ring => rw [ring]; exact ordered.drop
  | remove _ notEmpty ring =>
    obtain ⟨kept, -⟩ := ordered.remove notEmpty
    rwa [ring]

/-- Only INIT writes the initialisation record, and after INIT the block is initialised (10_state.md R27). -/
theorem exec_ctl_of_before {i : Instr} {s t : State} (h : exec i s = .next t) (before : t.ctl.initialized = false) :
    t.ctl = s.ctl := by
  obtain ⟨-, -, -, -, -, -, ctl, -⟩ := everyElementHasItsWriters i s t h
  refine ctl ?_
  rintro n d rfl
  rcases exec_init h with ⟨live, rfl⟩ | ⟨-, rfl⟩
  · exact nomatch before.symm.trans live
  · exact nomatch before

theorem exec_keeps_cfg {i : Instr} {s t : State} (h : exec i s = .next t) : t.cfg = s.cfg := by
  obtain ⟨cfg, -⟩ := everyElementHasItsWriters i s t h
  exact cfg

theorem FifoInv.after_exec {i : Instr} {s t : State} (inv : FifoInv s) (h : exec i s = .next t) : FifoInv t where
  ordered := exec_keeps_cfg h ▸ inv.exec_ordered h
  beforeInit before := by
    have ctl := exec_ctl_of_before h before
    rw [ctl] at before ⊢
    obtain ⟨disabled, isEmpty⟩ := inv.beforeInit before
    refine ⟨disabled, ?_⟩
    cases exec_ringMove h with
    | keep ring => rwa [ring]
    | clear _ ring => rw [ring]; rfl
    | accept enable | drop enable => exact nomatch disabled.symm.trans enable
    | remove live => exact nomatch before.symm.trans live

/-- R147 for one step: what was unread and what is accepted is what is returned and what is unread then. -/
theorem FifoInv.exec_balance {i : Instr} {s t : State} (inv : FifoInv s) (h : exec i s = .next t) :
    s.unread ++ acceptedByte i s t = returnedByte i s t ++ t.unread := by
  rw [State.unread_eq, State.unread_eq, exec_keeps_cfg h]
  cases exec_ringMove h with
  | keep ring traffic => rw [traffic.accepted, traffic.returned, ring, List.append_nil, List.nil_append]
  | clear before ring traffic =>
    obtain ⟨-, isEmpty⟩ := inv.beforeInit before
    have cleared : t.ring.isEmpty = true := by rw [ring]; rfl
    rw [traffic.accepted, traffic.returned, Ring.unread_of_isEmpty _ isEmpty, Ring.unread_of_isEmpty _ cleared]
  | accept _ notFull ring traffic =>
    rw [traffic.accepted, traffic.returned, ring, inv.ordered.unread_accept notFull, List.nil_append]
  | drop _ _ ring traffic =>
    rw [traffic.accepted, traffic.returned, ring, Ring.unread_drop, List.append_nil, List.nil_append]
  | remove _ notEmpty ring traffic =>
    rw [traffic.accepted, traffic.returned, ring, inv.ordered.unread_remove notEmpty, List.append_nil,
      List.singleton_append]

/-- R147 for a run: the steps' balances in a row. -/
theorem FifoInv.runOps_balance {ops : List Instr} {s t : State} (inv : FifoInv s) (h : runOps ops s = .next t) :
    s.unread ++ observe acceptedByte ops s = observe returnedByte ops s ++ t.unread := by
  induction ops generalizing s with
  | nil => cases h; simp [observe]
  | cons i ops ih =>
    obtain ⟨u, step, rest⟩ := runOps_cons.mp h
    rw [observe_cons step, observe_cons step, ← List.append_assoc, inv.exec_balance step, List.append_assoc,
      ih (inv.after_exec step) rest, List.append_assoc]

/-- Settles O22: the balance along the run; at reset nothing is unread. -/
theorem ringIsFirstInFirstOut : Obligations.RingIsFirstInFirstOut := by
  unfold Obligations.RingIsFirstInFirstOut
  refine ⟨fun ops s t inv run => inv.fifoInv.runOps_balance run, fun c ops t wf run => ⟨t.unread, ?_⟩⟩
  have nothing : (State.resetWith c).unread = [] := Ring.unread_of_isEmpty c.capacity rfl
  rw [← (resetMeetsTheInvariant c wf).fifoInv.runOps_balance run, nothing, List.nil_append]

end Sys2Proof.Machine
end

section
/-! TRANSMIT and the TX part of IRQ_SERIAL as operations answer them (42_txseq.md R160, R161, R165). -/

namespace Sys2Proof.Machine

/-- An accepted TRANSMIT (row T1 of 42_txseq.md R160). -/
theorem exec_transmit_of_idle {s : State} (p l : Word) (live : s.ctl.initialized = true) (idle : s.tx.state = .idle) :
    exec (.transmit p l) s = .next (respond (startSession s p l) .ok 0) :=
  ifInitialized_next.mpr (by rw [live, if_pos idle]; rfl)

/-- A TRANSMIT during a session (rows T2 and T3 of 42_txseq.md R160). -/
theorem exec_transmit_of_busy {s : State} (p l : Word) (live : s.ctl.initialized = true) (busy : s.tx.state ≠ .idle) :
    exec (.transmit p l) s = .next (respond (countBusy s) .busy 0) :=
  ifInitialized_next.mpr (by rw [live, if_neg busy]; rfl)

/-- In an idle block no byte is in the holding register, so a started session raises the line at once
(70_reset_and_hazards.md R273). -/
theorem irqSerial_startSession {s : State} (p l : Word) (inv : s.Inv) (idle : s.tx.state = .idle) :
    (startSession s p l).irqSerial = true := by
  obtain ⟨thr, -⟩ := inv.tx.idlePeripheral idle
  exact State.irqSerial_iff.mpr (.inr ⟨rfl, thr⟩)

/-- Settles O24: the check, then the two branches of TRANSMIT. -/
theorem transmitStartsOrIsRejected : Obligations.TransmitStartsOrIsRejected := by
  unfold Obligations.TransmitStartsOrIsRejected
  refine fun p l s => ⟨fun before => ?_, fun live busy => exec_transmit_of_busy p l live busy, fun live idle => ?_⟩
  · exact ifInitialized_next.mpr (by rw [before]; rfl)
  · exact ⟨_, exec_transmit_of_idle p l live idle, rfl, fun inv => irqSerial_startSession (s := s) p l inv idle⟩

/-- Rows T4 and T5 of 42_txseq.md R160: bytes are left to write. -/
theorem txStep_of_more {s : State} (more : s.tx.cursor < s.tx.len) : txStep s = txWriteByte s := if_pos more

/-- Rows T6 and T9 of 42_txseq.md R160: every byte is written and both registers are empty. -/
theorem txStep_of_drained {s : State} (all : ¬ s.tx.cursor < s.tx.len) (thr : s.ser.thr = none)
    (tsr : s.ser.tsr = none) : txStep s = txRelease s := by
  rw [txStep, if_neg all, if_pos (Serial.txComplete_iff.mpr ⟨thr, tsr⟩)]

/-- Rows T7 and T8 of 42_txseq.md R160: every byte is written and one is still being shifted out. -/
theorem txStep_of_shifting {s : State} (all : ¬ s.tx.cursor < s.tx.len) (tsr : s.ser.tsr ≠ none) :
    txStep s = txWait s := by
  rw [txStep, if_neg all, if_neg fun complete => tsr (Serial.txComplete_iff.mp complete).2]

theorem serveTx_of_txCondition {s : State} (on : s.txCondition = true) : serveTx s = txStep s := if_pos on

/-- With no byte waiting the RX part of the handler does nothing (43_controller.md R191). -/
theorem serveRx_of_not_rxReady {s : State} (noByte : s.ser.rxReady = false) : serveRx s = s :=
  if_neg (by simp [State.rxCondition, noByte])

/-- What the handler's RX part does is written around what its TX part does (43_controller.md R192). -/
theorem serveTx_serveRx (s : State) : serveTx (serveRx s) =
    { serveTx s with
      ring := (serveRx s).ring, ser := { (serveTx s).ser with rxReady := (serveRx s).ser.rxReady } } := by
  conv_lhs => rw [serveRx_frame s]
  exact serveTx_rx s _ _

/-- With no byte waiting and the TX condition on, IRQ_SERIAL is TXSTEP. -/
theorem exec_irqSerial_of_not_rxReady {s : State} (on : s.txCondition = true) (noByte : s.ser.rxReady = false) :
    exec .irqSerial s = .next (txStep s) := by
  refine exec_irqSerial.mpr ⟨State.irqSerial_iff.mpr (.inr (State.txCondition_iff.mp on)), ?_⟩
  rw [serveRx_of_not_rxReady noByte, serveTx_of_txCondition on]

/-- With the TX condition on, IRQ_SERIAL is TXSTEP but for the ring and `ser.rx_ready`, whether or not a received byte
waits. -/
theorem exec_irqSerial_of_txCondition {s : State} (on : s.txCondition = true) : ∃ (r : Ring) (b : Bool),
    exec .irqSerial s = .next { txStep s with ring := r, ser := { (txStep s).ser with rxReady := b } } := by
  have line : s.irqSerial = true := State.irqSerial_iff.mpr (.inr (State.txCondition_iff.mp on))
  refine ⟨(serveRx s).ring, (serveRx s).ser.rxReady, exec_irqSerial.mpr ⟨line, ?_⟩⟩
  rw [serveTx_serveRx, serveTx_of_txCondition on]

theorem TxInv.not_txCondition_of_idle {s : State} (inv : TxInv s) (idle : s.tx.state = .idle) :
    s.txCondition = false := by
  simp [State.txCondition, inv.idleIffDisabled.mp idle]

/-- A word below another word does not wrap when it counts on by one. -/
theorem toNat_add_one_of_lt {a b : Word} (h : a < b) : (a + 1).toNat = a.toNat + 1 := by
  bv_omega

/-- Settles O25: the rows of TRANSMIT, then those of TXSTEP by what the cursor and the shift register hold. -/
theorem sequencerTransitionTable : Obligations.SequencerTransitionTable := by
  unfold Obligations.SequencerTransitionTable
  intro s p l b
  refine ⟨fun live idle => exec_transmit_of_idle p l live idle, fun live busy => ?_, fun ie thr => ?_,
    fun inv idle => inv.tx.not_txCondition_of_idle idle⟩
  · exact exec_transmit_of_busy p l live (by rcases busy with busy | busy <;> simp [busy])
  have on : s.txCondition = true := State.txCondition_iff.mpr ⟨ie, thr⟩
  obtain ⟨r, ready, step⟩ := exec_irqSerial_of_txCondition on
  have all : s.tx.len.toNat ≤ s.tx.cursor.toNat → ¬ s.tx.cursor < s.tx.len := fun h => by bv_omega
  refine ⟨_, step, fun noByte => ?frame, ?_⟩
  case frame =>
    have alone := step.symm.trans (exec_irqSerial_of_not_rxReady on noByte)
    injection alone with alone
    rw [alone, ← serveTx_of_txCondition on]
    exact serveTx_frame s
  refine ⟨fun filling more byte => ?_, fun filling last byte => ?_, fun _ h tsr => ?_, fun _ h tsr => ?_,
    fun draining h tsr => ?_⟩
  · have next : s.tx.cursor + 1 ≠ s.tx.len := by bv_omega
    rw [txStep_of_more (by bv_omega), ← byte, txWriteByte_tx, if_neg next, ← filling]
    exact ⟨rfl, rfl⟩
  · have next : s.tx.cursor + 1 = s.tx.len := by bv_omega
    rw [txStep_of_more (by bv_omega), ← byte, txWriteByte_tx, if_pos next]
    exact ⟨rfl, rfl⟩
  · rw [txStep_of_drained (all h) thr tsr]
    exact ⟨thr, rfl⟩
  · rw [txStep_of_shifting (all h) tsr]
    exact ⟨thr, rfl⟩
  · rw [txStep_of_shifting (all h) tsr, txWait, ← draining]
    exact ⟨thr, rfl⟩

/-- Settles O28: with length 0 the first TXSTEP finds nothing to write and an empty peripheral. -/
theorem zeroLengthSessionPulsesThePin : Obligations.ZeroLengthSessionPulsesThePin := by
  unfold Obligations.ZeroLengthSessionPulsesThePin
  intro s p inv live idle
  obtain ⟨thr, tsr⟩ := inv.tx.idlePeripheral idle
  have on : State.txCondition (respond (startSession s p 0) .ok 0) = true := State.txCondition_iff.mpr ⟨rfl, thr⟩
  have drained : txStep (respond (startSession s p 0) .ok 0) = txRelease (respond (startSession s p 0) .ok 0) :=
    txStep_of_drained (BitVec.lt_irrefl 0) thr tsr
  obtain ⟨r, b, release⟩ := exec_irqSerial_of_txCondition on
  rw [drained] at release
  exact ⟨_, _, exec_transmit_of_idle p 0 live idle, rfl, rfl, rfl, rfl, rfl, release, rfl, rfl, rfl, rfl, thr, tsr, rfl⟩

/-- An operation that changes nothing changes nothing however often it occurs. -/
theorem runOps_replicate_of_fixed {i : Instr} {s : State} (fixed : exec i s = .next s) (n : Nat) :
    runOps (List.replicate n i) s = .next s := by
  induction n with
  | zero => rfl
  | succ n ih => exact runOps_cons.mpr ⟨s, fixed, ih⟩

/-- Settles O33: TXSTEP waits while the shift register is busy; SER_DONE empties it and TXSTEP then releases. -/
theorem drainingWaitsForTheShiftRegister : Obligations.DrainingWaitsForTheShiftRegister := by
  unfold Obligations.DrainingWaitsForTheShiftRegister
  intro s n inv draining thr tsr noByte
  obtain ⟨ie, -⟩ := Inv.busy inv (by simp [draining])
  have all : ¬ s.tx.cursor < s.tx.len := by
    rw [inv.tx.draining draining]
    exact BitVec.lt_irrefl _
  have waits : exec .irqSerial s = .next s := by
    rw [exec_irqSerial_of_not_rxReady (State.txCondition_iff.mpr ⟨ie, thr⟩) noByte, txStep_of_shifting all tsr, txWait,
      ← draining]
  obtain ⟨b, shifted⟩ := Option.ne_none_iff_exists'.mp tsr
  have drained : txStep (finishByte s b) = txRelease (finishByte s b) := txStep_of_drained all thr rfl
  have release : exec .irqSerial (finishByte s b) = .next (txStep (finishByte s b)) :=
    exec_irqSerial_of_not_rxReady (State.txCondition_iff.mpr ⟨ie, thr⟩) noByte
  rw [drained] at release
  exact ⟨State.irqSerial_iff.mpr (.inr ⟨ie, thr⟩), runOps_replicate_of_fixed waits n, _, _,
    exec_serDone.mpr ⟨b, shifted, rfl⟩, Serial.txComplete_iff.mpr ⟨thr, rfl⟩, release, rfl, rfl, rfl⟩

end Sys2Proof.Machine
end

section
/-! What a step does to the transmit side, once: the session, the transmit registers and the wire (42_txseq.md R160,
44_environment.md R205, R206); and what follows for the pin and the cursor (R162, R168). -/

namespace Sys2Proof.Machine

/-- What the transmit registers and the wire hold (10_state.md R48, R50). -/
structure LineHolds (s : State) (thr tsr : Option Byte) (tsrDir : Dir) (wire : List (Byte × Bool)) : Prop where
  thr : s.ser.thr = thr
  tsr : s.ser.tsr = tsr
  tsrDir : s.ser.tsrDir = tsrDir
  wire : s.wire = wire

/-- The operation moves no byte on: it is none of SER_LOAD, SER_DONE and a TXSTEP. -/
structure MovesNoByte (i : Instr) (s : State) : Prop where
  noLoad : i ≠ .serLoad
  noDone : i ≠ .serDone
  noTxStep : i = .irqSerial → s.txCondition = false

/-- All that a step can do to the transmit side. -/
inductive TxMove (i : Instr) (s t : State) : Prop
  /-- Nothing but the record of rejected transmissions (42_txseq.md R163) changes. -/
  | keep (busyCnt : Word) (busyErr : Bool) (still : MovesNoByte i s)
      (tx : t.tx = { s.tx with busyCnt := busyCnt, busyErr := busyErr })
      (line : LineHolds t s.ser.thr s.ser.tsr s.ser.tsrDir s.wire)
  /-- The one successful INIT (43_controller.md R186). -/
  | clear (before : s.ctl.initialized = false)
      (tx : t.tx = { s.tx with state := .idle, ptr := 0, len := 0, cursor := 0, ie := false, dir := .receive })
      (line : LineHolds t s.ser.thr s.ser.tsr s.ser.tsrDir s.wire)
  /-- Row T1 of 42_txseq.md R160. -/
  | start (p l : Word) (op : i = .transmit p l) (live : s.ctl.initialized = true) (idle : s.tx.state = .idle)
      (tx : t.tx = (startSession s p l).tx) (ser : t.ser = s.ser) (wire : t.wire = s.wire)
  /-- Rows T4 and T5 of 42_txseq.md R160. -/
  | write (op : i = .irqSerial) (on : s.txCondition = true) (more : s.tx.cursor < s.tx.len)
      (tx : t.tx = (txWriteByte s).tx)
      (line : LineHolds t (some (memRead s s.txAddress)) s.ser.tsr s.ser.tsrDir s.wire)
  /-- Rows T6 and T9 of 42_txseq.md R160. -/
  | release (op : i = .irqSerial) (on : s.txCondition = true) (all : ¬ s.tx.cursor < s.tx.len)
      (empty : s.ser.tsr = none) (tx : t.tx = (txRelease s).tx)
      (line : LineHolds t s.ser.thr s.ser.tsr s.ser.tsrDir s.wire)
  /-- Rows T7 and T8 of 42_txseq.md R160. -/
  | wait (op : i = .irqSerial) (on : s.txCondition = true) (all : ¬ s.tx.cursor < s.tx.len)
      (shifting : s.ser.tsr ≠ none) (tx : t.tx = (txWait s).tx)
      (line : LineHolds t s.ser.thr s.ser.tsr s.ser.tsrDir s.wire)
  /-- SER_LOAD (44_environment.md R205). -/
  | load (b : Byte) (op : i = .serLoad) (held : s.ser.thr = some b) (empty : s.ser.tsr = none)
      (tx : t.tx = s.tx) (line : LineHolds t none (some b) s.tx.dir s.wire)
  /-- SER_DONE (44_environment.md R206). -/
  | finish (b : Byte) (op : i = .serDone) (shifting : s.ser.tsr = some b) (tx : t.tx = s.tx)
      (line : LineHolds t s.ser.thr none s.ser.tsrDir
        (s.wire ++ [(b, s.ser.tsrDir.asserted && s.tx.dir.asserted)]))

theorem Serial.loadEnabled_iff {p : Serial} : p.loadEnabled = true ↔ (∃ b, p.thr = some b) ∧ p.tsr = none := by
  simp [Serial.loadEnabled, Option.isSome_iff_exists]

/-- The serial handler's part of `exec_txMove`: a TXSTEP where the TX condition is on. -/
theorem exec_irqSerial_txMove {s t : State} (h : exec .irqSerial s = .next t) : TxMove .irqSerial s t := by
  obtain ⟨-, rfl⟩ := exec_irqSerial.mp h
  rw [serveTx_serveRx]
  rcases serveTx_cases s with ⟨off, e⟩ | ⟨on, more, e⟩ | ⟨on, all, complete, e⟩ | ⟨on, all, shifting, e⟩ <;> rw [e]
  · exact .keep s.tx.busyCnt s.tx.busyErr ⟨nofun, nofun, fun _ => off⟩ rfl ⟨rfl, rfl, rfl, rfl⟩
  · exact .write rfl on more rfl ⟨rfl, rfl, rfl, rfl⟩
  · exact .release rfl on all (Serial.txComplete_iff.mp complete).2 rfl ⟨rfl, rfl, rfl, rfl⟩
  · have thr : s.ser.thr = none := (State.txCondition_iff.mp on).2
    have tsr : s.ser.tsr ≠ none := fun empty =>
      nomatch shifting.symm.trans (Serial.txComplete_iff.mpr ⟨thr, empty⟩)
    exact .wait rfl on all tsr rfl ⟨rfl, rfl, rfl, rfl⟩

/-- A step that writes neither the sequencer nor the transmit registers nor the wire. -/
theorem TxMove.of_kept {i : Instr} {s t : State} (still : MovesNoByte i s) (tx : t.tx = s.tx) (ser : t.ser = s.ser)
    (wire : t.wire = s.wire) : TxMove i s t :=
  .keep s.tx.busyCnt s.tx.busyErr still tx ⟨by rw [ser], by rw [ser], by rw [ser], wire⟩

/-- Every step makes one of the moves. -/
theorem exec_txMove {i : Instr} {s t : State} (h : exec i s = .next t) : TxMove i s t := by
  obtain ⟨-, -, -, -, -, -, -, -, -, -, -, tx, -, -, ser, wire, -⟩ := everyElementHasItsWriters i s t h
  cases i with
  | init n d =>
    rcases exec_init h with ⟨-, rfl⟩ | ⟨before, rfl⟩
    · exact .of_kept ⟨nofun, nofun, nofun⟩ rfl rfl rfl
    · exact .clear before rfl ⟨rfl, rfl, rfl, rfl⟩
  | transmit p l =>
    rcases exec_transmit h with ⟨-, rfl⟩ | ⟨live, idle, rfl⟩ | ⟨-, -, rfl⟩
    · exact .of_kept ⟨nofun, nofun, nofun⟩ rfl rfl rfl
    · exact .start p l rfl live idle rfl rfl rfl
    · exact .keep _ _ ⟨nofun, nofun, nofun⟩ rfl ⟨rfl, rfl, rfl, rfl⟩
  | irqSerial => exact exec_irqSerial_txMove h
  | serRx b =>
    obtain ⟨-, rfl⟩ := exec_serRx.mp h
    exact .keep s.tx.busyCnt s.tx.busyErr ⟨nofun, nofun, nofun⟩ rfl (by constructor <;> simp)
  | serLoad =>
    obtain ⟨loadable, rfl⟩ := exec_serLoad.mp h
    obtain ⟨⟨b, held⟩, empty⟩ := Serial.loadEnabled_iff.mp loadable
    exact .load b rfl held empty rfl ⟨rfl, held, rfl, rfl⟩
  | serDone =>
    obtain ⟨b, shifting, rfl⟩ := exec_serDone.mp h
    exact .finish b rfl shifting rfl ⟨rfl, rfl, rfl, rfl⟩
  | pop | len | now | poll | rdreg | irqTimer | tmrTick | memWr =>
    exact .of_kept ⟨nofun, nofun, nofun⟩ (tx nofun nofun nofun) (ser nofun nofun nofun nofun) (wire nofun)

/-- Only a TXSTEP fills the holding register, and it leaves the pin alone (42_txseq.md R162). -/
theorem exec_fills_thr {i : Instr} {s t : State} (h : exec i s = .next t) (empty : s.ser.thr = none)
    (full : t.ser.thr ≠ none) : i = .irqSerial ∧ s.txCondition = true ∧ t.tx.dir = s.tx.dir := by
  cases exec_txMove h with
  | write op on _ tx => exact ⟨op, on, by rw [tx]; rfl⟩
  | start p l _ _ _ _ ser => exact absurd (ser ▸ empty) full
  | load b _ _ _ _ line => exact absurd line.thr full
  | keep _ _ _ _ line | clear _ _ line | release _ _ _ _ _ line | wait _ _ _ _ _ line | finish _ _ _ _ line =>
    exact absurd (line.thr.trans empty) full

/-- Only a started session raises the pin, and it leaves the peripheral alone (42_txseq.md R161, R162). -/
theorem exec_raises_pin {i : Instr} {s t : State} (h : exec i s = .next t) (low : s.tx.dir = .receive)
    (high : t.tx.dir = .transmit) : (∃ p l, i = .transmit p l) ∧ s.tx.state = .idle ∧ t.ser = s.ser := by
  cases exec_txMove h with
  | start p l op _ idle _ ser => exact ⟨⟨p, l, op⟩, idle, ser⟩
  | keep _ _ _ tx | clear _ tx | write _ _ _ tx | release _ _ _ _ tx | wait _ _ _ _ tx | load _ _ _ _ tx
  | finish _ _ _ tx => simp [tx, low] at high

/-- A TXSTEP finds the pin at Transmit (70_reset_and_hazards.md R272). -/
theorem TxInv.transmit_of_txCondition {s : State} (inv : TxInv s) (on : s.txCondition = true) :
    s.tx.dir = .transmit := by
  cases pin : s.tx.dir with
  | transmit => rfl
  | receive => exact nomatch on.symm.trans (inv.not_txCondition_of_idle (inv.idleIffReceive.mpr pin))

/-- Settles O26: only a TXSTEP fills the holding register, and only a started session raises the pin. -/
theorem pinRisesBeforeTheFirstByte : Obligations.PinRisesBeforeTheFirstByte := by
  unfold Obligations.PinRisesBeforeTheFirstByte
  refine fun i s t inv h => ⟨fun empty full => ?_, exec_raises_pin h⟩
  obtain ⟨op, on, pin⟩ := exec_fills_thr h empty full
  have high := inv.tx.transmit_of_txCondition on
  exact ⟨op, high, pin.trans high⟩

/-- Before INIT the sequencer is as after reset (43_controller.md R185). -/
theorem ControlInv.tx_of_before {s : State} (inv : ControlInv s) (before : s.ctl.initialized = false) :
    s.tx = (State.resetWith s.cfg).tx := by
  have tx := congrArg State.tx (inv.beforeInit before)
  exact tx

/-- The cursor never passes the length (70_reset_and_hazards.md R272). -/
theorem exec_keeps_cursor_le {i : Instr} {s t : State} (kept : s.tx.cursor ≤ s.tx.len) (h : exec i s = .next t) :
    t.tx.cursor ≤ t.tx.len := by
  cases exec_txMove h with
  | clear _ tx | start _ _ _ _ _ tx => rw [tx]; exact BitVec.le_def.mpr (Nat.zero_le _)
  | write _ _ more tx =>
    rw [tx, txWriteByte_tx]
    bv_omega
  | keep _ _ _ tx | release _ _ _ _ tx | wait _ _ _ _ tx | load _ _ _ _ tx | finish _ _ _ tx => rw [tx]; exact kept

/-- Nothing but a started session and a TXSTEP that writes a byte moves the cursor or fills the holding register
(42_txseq.md R168). -/
theorem exec_keeps_cursor {i : Instr} {s t : State} (inv : s.Inv) (h : exec i s = .next t)
    (noStart : ¬ ∃ p l, i = .transmit p l ∧ s.ctl.initialized = true ∧ s.tx.state = .idle)
    (noWrite : ¬ (i = .irqSerial ∧ s.tx.ie = true ∧ s.ser.thr = none ∧ s.tx.cursor < s.tx.len)) :
    t.tx.cursor = s.tx.cursor ∧ (t.ser.thr = s.ser.thr ∨ i = .serLoad ∧ t.ser.thr = none) := by
  cases exec_txMove h with
  | start p l op live idle => exact absurd ⟨p, l, op, live, idle⟩ noStart
  | write op on more =>
    obtain ⟨ie, thr⟩ := State.txCondition_iff.mp on
    exact absurd ⟨op, ie, thr, more⟩ noWrite
  | clear before tx line => exact ⟨by rw [tx, inv.control.tx_of_before before]; rfl, .inl line.thr⟩
  | load _ op _ _ tx line => exact ⟨by rw [tx], .inr ⟨op, line.thr⟩⟩
  | keep _ _ _ tx line | release _ _ _ _ tx line | wait _ _ _ _ tx line | finish _ _ _ tx line =>
    exact ⟨by simp [tx], .inl line.thr⟩

/-- Settles O29: the started session and the written byte from the operations' own answers, the rest from the moves. -/
theorem cursorCountsBytesWritten : Obligations.CursorCountsBytesWritten := by
  unfold Obligations.CursorCountsBytesWritten
  refine fun i s t inv h => ⟨exec_keeps_cursor_le inv.tx.cursorLe h, ?_, ?_, exec_keeps_cursor inv h⟩
  · rintro p l rfl live idle
    have started := h.symm.trans (exec_transmit_of_idle p l live idle)
    injection started with started
    rw [started]
    exact ⟨rfl, rfl⟩
  · rintro rfl ie thr more
    obtain ⟨r, b, step⟩ := exec_irqSerial_of_txCondition (State.txCondition_iff.mpr ⟨ie, thr⟩)
    have written := h.symm.trans step
    injection written with written
    rw [written, txStep_of_more more]
    exact ⟨toNat_add_one_of_lt more, rfl, rfl⟩

end Sys2Proof.Machine
end

section
/-! A transmit session: what holds of it from its start to its release, the bytes it has emitted so far, and the way it
ends (42_txseq.md R164 to R168, R171). -/

namespace Sys2Proof.Machine

/-- A session of `l` bytes at `p` is in flight: the pin is at Transmit, also for the byte being shifted out. -/
structure Session (p l : Word) (s : State) : Prop where
  live : s.ctl.initialized = true
  busy : s.tx.state ≠ .idle
  ptr : s.tx.ptr = p
  len : s.tx.len = l
  cursorLe : s.tx.cursor ≤ l
  ie : s.tx.ie = true
  pin : s.tx.dir = .transmit
  shiftedPin : s.ser.tsr ≠ none → s.ser.tsrDir = .transmit

/-- The step that ends a session of `l` bytes (rows T6 and T9 of 42_txseq.md R160, R166): every byte is written and has
left, and the pin falls. -/
structure Releases (l : Word) (i : Instr) (s t : State) : Prop where
  op : i = .irqSerial
  thr : s.ser.thr = none
  tsr : s.ser.tsr = none
  cursor : s.tx.cursor = l
  idle : t.tx.state = .idle
  pin : t.tx.dir = .receive
  ie : t.tx.ie = false
  wire : t.wire = s.wire

theorem State.Inv.session {s : State} (inv : s.Inv) (busy : s.tx.state ≠ .idle) : Session s.tx.ptr s.tx.len s := by
  obtain ⟨ie, pin⟩ := Inv.busy inv busy
  have live : s.ctl.initialized = true := by
    by_contra before
    exact busy (by rw [inv.control.tx_of_before (Bool.eq_false_of_not_eq_true before)]; rfl)
  exact ⟨live, busy, rfl, rfl, inv.tx.cursorLe, ie, pin, inv.tx.shiftedUnderTransmit⟩

/-- An accepted TRANSMIT starts a session, with an empty peripheral (42_txseq.md R161, 70_reset_and_hazards.md R273). -/
theorem State.Inv.session_start {s : State} (inv : s.Inv) (p l : Word) (live : s.ctl.initialized = true)
    (idle : s.tx.state = .idle) : Session p l (respond (startSession s p l) .ok 0) where
  live := live
  busy := nofun
  ptr := rfl
  len := rfl
  cursorLe := BitVec.le_def.mpr (Nat.zero_le _)
  ie := rfl
  pin := rfl
  shiftedPin shifted := absurd (inv.tx.idlePeripheral idle).2 shifted

section session

variable {p l : Word} {i : Instr} {s t : State}

/-- After INIT every operation keeps `initialized` (10_state.md R27). -/
theorem exec_keeps_live (h : exec i s = .next t) (live : s.ctl.initialized = true) : t.ctl.initialized = true := by
  by_contra before
  rw [exec_ctl_of_before h (Bool.eq_false_of_not_eq_true before)] at before
  exact before live

/-- A step that does not enter Idle and leaves the session's buffer, its enable and the pin alone keeps it in flight. -/
theorem Session.of_tx (session : Session p l s) (h : exec i s = .next t) {state : TxState} {cursor busyCnt : Word}
    {busyErr : Bool}
    (tx : t.tx = { s.tx with state := state, cursor := cursor, busyCnt := busyCnt, busyErr := busyErr })
    (busy : state ≠ .idle) (shiftedPin : t.ser.tsr ≠ none → t.ser.tsrDir = .transmit) : Session p l t := by
  obtain ⟨live, -, rfl, rfl, cursorLe, ie, pin, -⟩ := session
  have within := exec_keeps_cursor_le cursorLe h
  rw [tx] at within
  constructor
  case live => exact exec_keeps_live h live
  case shiftedPin => exact shiftedPin
  all_goals rw [tx]
  · exact busy
  · exact within
  · exact ie
  · exact pin

/-- A step that leaves the shift register leaves its byte under Transmit (70_reset_and_hazards.md R274). -/
theorem Session.shiftedPin_of_line (session : Session p l s) {thr : Option Byte} {wire : List (Byte × Bool)}
    (line : LineHolds t thr s.ser.tsr s.ser.tsrDir wire) : t.ser.tsr ≠ none → t.ser.tsrDir = .transmit := by
  rw [line.tsr, line.tsrDir]
  exact session.shiftedPin

/-- With every byte written, the cursor stands at the length. -/
theorem Session.cursor_eq (session : Session p l s) (all : ¬ s.tx.cursor < s.tx.len) : s.tx.cursor = l := by
  have cursorLe := session.cursorLe
  rw [session.len] at all
  bv_omega

/-- A step of a session keeps it in flight or releases it. -/
theorem Session.exec_cases (session : Session p l s) (h : exec i s = .next t) : Session p l t ∨ Releases l i s t := by
  cases exec_txMove h with
  | clear before => exact nomatch before.symm.trans session.live
  | start p l op live idle => exact absurd idle session.busy
  | keep _ _ _ tx line =>
    exact .inl (session.of_tx h tx session.busy (session.shiftedPin_of_line line))
  | write op on more tx line =>
    exact .inl (session.of_tx h tx (by split <;> nofun) (session.shiftedPin_of_line line))
  | wait op on all shifting tx line =>
    exact .inl (session.of_tx h tx nofun (session.shiftedPin_of_line line))
  | load b op held empty tx line =>
    exact .inl (session.of_tx h tx session.busy fun _ => line.tsrDir.trans session.pin)
  | finish b op shifting tx line =>
    exact .inl (session.of_tx h tx session.busy fun full => absurd line.tsr full)
  | release op on all empty tx line =>
    obtain ⟨-, thr⟩ := State.txCondition_iff.mp on
    exact .inr ⟨op, thr, empty, session.cursor_eq all, by rw [tx]; rfl, by rw [tx]; rfl,
      by rw [tx]; rfl, line.wire⟩

end session

/-- Settles O27: a state with the pin at Transmit has a session in flight, and only its release lowers the pin. -/
theorem pinFallsOnlyWhenDrained : Obligations.PinFallsOnlyWhenDrained := by
  unfold Obligations.PinFallsOnlyWhenDrained
  intro i s t inv h high low
  have busy : s.tx.state ≠ .idle := fun idle => nomatch high.symm.trans (inv.tx.idleIffReceive.mp idle)
  rcases (inv.session busy).exec_cases h with session | release
  · exact nomatch low.symm.trans session.pin
  · exact ⟨release.op, release.thr, release.tsr, release.cursor, release.ie, release.idle⟩

/-- The bytes in the peripheral, the one that leaves first in front. -/
def Serial.pending (p : Serial) : List Byte := p.tsr.toList ++ p.thr.toList

/-- What a session that started in `s₀` with the buffer `l` bytes at `p` has emitted in `s`: the buffer still holds what
it held, and the wire, with the bytes still in the peripheral, has gained the first `tx_cursor` bytes of it, intact. -/
structure Emitting (s₀ : State) (p l : Word) (s : State) : Prop where
  buffer : ∀ k < l.toNat, memRead s (p + BitVec.ofNat 32 k) = memRead s₀ (p + BitVec.ofNat 32 k)
  bytes : s.wire ++ s.ser.pending.map (·, true) = s₀.wire ++ (bufferBytes s₀ p s.tx.cursor).map (·, true)

section emitting

variable {s₀ : State} {p l : Word} {i : Instr} {s t : State}

/-- Only MEM_WR writes memory (20_memory.md R73), so an operation that does not write the buffer leaves its bytes. -/
theorem exec_keeps_buffer (h : exec i s = .next t) (duty : ¬ writesBuffer i p l) {k : Nat} (within : k < l.toNat) :
    memRead t (p + BitVec.ofNat 32 k) = memRead s (p + BitVec.ofNat 32 k) := by
  by_cases write : ∃ a v, i = .memWr a v
  · obtain ⟨a, v, rfl⟩ := write
    obtain rfl := exec_memWr.mp h
    rw [memRead_memWrite, if_neg fun same => duty ⟨v, k, within, by rw [same]⟩]
  · obtain ⟨-, -, -, -, -, mem, -⟩ := everyElementHasItsWriters i s t h
    exact memRead_congr (mem fun a v same => write ⟨a, v, same⟩) _

/-- One byte more of a buffer. -/
theorem bufferBytes_add_one (s : State) (p : Word) {c l : Word} (more : c < l) :
    bufferBytes s p (c + 1) = bufferBytes s p c ++ [memRead s (p + c)] := by
  rw [bufferBytes, toNat_add_one_of_lt more, List.range_succ]
  simp [bufferBytes]

/-- Before its first byte a session has emitted nothing. -/
theorem State.Inv.emitting_start (inv : s.Inv) (p l : Word) (idle : s.tx.state = .idle) :
    Emitting s p l (respond (startSession s p l) .ok 0) := by
  obtain ⟨thr, tsr⟩ := inv.tx.idlePeripheral idle
  exact ⟨fun _ _ => rfl, by simp [Serial.pending, thr, tsr, bufferBytes]⟩

/-- Every step of a session, the releasing one too, moves the emitted bytes on by what it writes. -/
theorem Emitting.after_exec (emitting : Emitting s₀ p l s) (session : Session p l s) (h : exec i s = .next t)
    (duty : ¬ writesBuffer i p l) : Emitting s₀ p l t := by
  refine ⟨fun k within => (exec_keeps_buffer h duty within).trans (emitting.buffer k within), ?_⟩
  have bytes := emitting.bytes
  unfold Serial.pending at bytes ⊢
  cases exec_txMove h with
  | clear before => exact nomatch before.symm.trans session.live
  | start p l op live idle => exact absurd idle session.busy
  | keep _ _ _ tx line | release _ _ _ _ tx line | wait _ _ _ _ tx line =>
    rw [line.thr, line.tsr, line.wire, tx]
    exact bytes
  | load b _ held empty tx line =>
    rw [held, empty] at bytes
    rw [line.thr, line.tsr, line.wire, tx]
    exact bytes
  | finish b _ shifting tx line =>
    have pin : s.ser.tsrDir = .transmit := session.shiftedPin (by simp [shifting])
    rw [shifting] at bytes
    rw [line.thr, line.tsr, line.wire, tx, pin, session.pin, ← bytes]
    simp [Dir.asserted]
  | write _ on more tx line =>
    obtain ⟨-, thr⟩ := State.txCondition_iff.mp on
    have byte : memRead s s.txAddress = memRead s₀ (p + s.tx.cursor) := by
      have within := emitting.buffer s.tx.cursor.toNat (by rw [← session.len]; exact more)
      rw [BitVec.ofNat_toNat, BitVec.setWidth_eq] at within
      rw [State.txAddress, session.ptr, within]
    rw [thr] at bytes
    rw [line.thr, line.tsr, line.wire, tx, txWriteByte_tx, bufferBytes_add_one s₀ p more, byte]
    simpa using congrArg (· ++ [(memRead s₀ (p + s.tx.cursor), true)]) bytes

/-- When a session is released, exactly the buffer has been added to the wire. -/
theorem Emitting.wire_of_releases (emitting : Emitting s₀ p l s) (release : Releases l i s t) :
    s.wire = s₀.wire ++ (bufferBytes s₀ p l).map (·, true) := by
  have bytes := emitting.bytes
  rw [Serial.pending, release.thr, release.tsr, release.cursor] at bytes
  simpa using bytes

/-- A run of a session that first returns to Idle at its end has put the buffer on the wire. -/
theorem Emitting.runOps_wire {ops : List Instr} (emitting : Emitting s₀ p l s) (session : Session p l s)
    (run : runOps ops s = .next t) (duty : ∀ i ∈ ops, ¬ writesBuffer i p l)
    (first : ∀ (early : List Instr) (u : State), early <+: ops → early ≠ ops → runOps early s = .next u →
      u.tx.state ≠ .idle)
    (idle : t.tx.state = .idle) :
    t.wire = s₀.wire ++ (bufferBytes s₀ p l).map (·, true) ∧ t.tx.dir = .receive := by
  induction ops generalizing s with
  | nil => cases run; exact absurd idle session.busy
  | cons i ops ih =>
    obtain ⟨u, step, rest⟩ := runOps_cons.mp run
    obtain ⟨dutyNow, dutyLater⟩ := List.forall_mem_cons.mp duty
    rcases session.exec_cases step with goesOn | release
    · refine ih (emitting.after_exec session step dutyNow) goesOn rest dutyLater
        fun early v initial proper earlyRun => ?_
      exact first (i :: early) v (List.cons_prefix_cons.mpr ⟨rfl, initial⟩) (by simpa using proper)
        (runOps_cons.mpr ⟨u, step, earlyRun⟩)
    · have last : ops = [] := by
        by_contra more
        exact first [i] u ⟨ops, rfl⟩ (by simpa using Ne.symm more) (runOps_cons.mpr ⟨u, step, rfl⟩) release.idle
      subst last
      cases rest
      exact ⟨release.wire.trans (emitting.wire_of_releases release), release.pin⟩

end emitting

/-- Settles O30: along the run the session has emitted the bytes up to its cursor, and its release finds them all on the
wire. -/
theorem sessionPutsTheBufferOnTheWire : Obligations.SessionPutsTheBufferOnTheWire := by
  unfold Obligations.SessionPutsTheBufferOnTheWire
  intro ops p l s s' t inv live idle start run duty first returned
  have started := start.symm.trans (exec_transmit_of_idle p l live idle)
  injection started with started
  subst started
  exact (inv.emitting_start p l idle).runOps_wire (inv.session_start p l live idle) run duty first returned

end Sys2Proof.Machine
end

section
/-! How a session comes to its end: by the prompt schedule, and in every fair execution (42_txseq.md R171,
60_exceptions.md R233). -/

namespace Sys2Proof.Machine

/-- Between two rounds of the prompt schedule: `k` bytes of the session that started in `s₀` have left, the peripheral
is empty and no byte has been received. -/
structure BetweenRounds (s₀ : State) (p l : Word) (k : Nat) (s : State) : Prop where
  session : Session p l s
  emitting : Emitting s₀ p l s
  cursor : s.tx.cursor.toNat = k
  thr : s.ser.thr = none
  tsr : s.ser.tsr = none
  noByte : s.ser.rxReady = false
  ring : s.ring = s₀.ring
  mem : s.mem = s₀.mem

/-- One round of the prompt schedule, which sends one byte. -/
def promptRound : List Instr := [.irqSerial, .serLoad, .serDone]

section prompt

variable {s₀ : State} {p l : Word} {k : Nat} {s : State}

/-- The TX condition of a session is the empty holding register. -/
theorem Session.txCondition (session : Session p l s) (thr : s.ser.thr = none) : s.txCondition = true :=
  State.txCondition_iff.mpr ⟨session.ie, thr⟩

/-- A step that writes no memory and cannot release the session keeps it in flight, and what it emits. -/
theorem Session.exec_goes_on {i : Instr} {t : State} (session : Session p l s) (emitting : Emitting s₀ p l s)
    (h : exec i s = .next t) (noWrite : ∀ a v, i ≠ .memWr a v) (noRelease : i = .irqSerial → s.tx.cursor ≠ l) :
    Session p l t ∧ Emitting s₀ p l t := by
  refine ⟨(session.exec_cases h).resolve_right fun release => noRelease release.op release.cursor, ?_⟩
  exact emitting.after_exec session h fun ⟨v, k, _, same⟩ => noWrite _ v same

/-- A round sends the byte at the cursor. -/
theorem BetweenRounds.round (between : BetweenRounds s₀ p l k s) (more : k < l.toNat) :
    ∃ t, runOps promptRound s = .next t ∧ BetweenRounds s₀ p l (k + 1) t := by
  obtain ⟨session, emitting, rfl, thr, tsr, noByte, ring, mem⟩ := between
  have below : s.tx.cursor < s.tx.len := by rw [session.len]; exact more
  have write := exec_irqSerial_of_not_rxReady (session.txCondition thr) noByte
  rw [txStep_of_more below] at write
  have load : exec .serLoad (txWriteByte s) = .next (loadShift (txWriteByte s)) :=
    exec_serLoad.mpr ⟨Serial.loadEnabled_iff.mpr ⟨⟨_, rfl⟩, tsr⟩, rfl⟩
  have finish := exec_serDone.mpr ⟨memRead s s.txAddress, (rfl : (loadShift (txWriteByte s)).ser.tsr = _), rfl⟩
  obtain ⟨session₁, emitting₁⟩ := session.exec_goes_on emitting write nofun fun _ last => by
    rw [last] at more; exact lt_irrefl _ more
  obtain ⟨session₂, emitting₂⟩ := session₁.exec_goes_on emitting₁ load nofun nofun
  obtain ⟨session₃, emitting₃⟩ := session₂.exec_goes_on emitting₂ finish nofun nofun
  exact ⟨_, runOps_cons.mpr ⟨_, write, runOps_cons.mpr ⟨_, load, runOps_cons.mpr ⟨_, finish, rfl⟩⟩⟩,
    session₃, emitting₃, toNat_add_one_of_lt below, rfl, rfl, noByte, ring, mem⟩

/-- As many rounds as bytes are left send them all. -/
theorem BetweenRounds.rounds (between : BetweenRounds s₀ p l k s) (n : Nat) (all : k + n = l.toNat) :
    ∃ t, runOps (List.replicate n promptRound).flatten s = .next t ∧ BetweenRounds s₀ p l l.toNat t := by
  induction n generalizing k s with
  | zero => exact ⟨s, rfl, all ▸ between⟩
  | succ n ih =>
    obtain ⟨u, round, next⟩ := between.round (by omega)
    obtain ⟨t, rest, last⟩ := ih next (by omega)
    refine ⟨t, ?_, last⟩
    rw [List.replicate_succ, List.flatten_cons, runOps_append round, rest]

end prompt

/-- Settles O32: a round for each byte, and one TXSTEP that finds every byte written and both registers empty. -/
theorem promptServiceSendsTheFrame : Obligations.PromptServiceSendsTheFrame := by
  unfold Obligations.PromptServiceSendsTheFrame
  intro s p l inv live idle noByte
  obtain ⟨thr, tsr⟩ := inv.tx.idlePeripheral idle
  have first : BetweenRounds s p l 0 (respond (startSession s p l) .ok 0) :=
    ⟨inv.session_start p l live idle, inv.emitting_start p l idle, rfl, thr, tsr, noByte, rfl, rfl⟩
  obtain ⟨u, rounds, last⟩ := first.rounds l.toNat (Nat.zero_add _)
  have cursor : u.tx.cursor = l := BitVec.eq_of_toNat_eq last.cursor
  have release := exec_irqSerial_of_not_rxReady (last.session.txCondition last.thr) last.noByte
  rw [txStep_of_drained (by rw [cursor, last.session.len]; exact BitVec.lt_irrefl l) last.thr last.tsr] at release
  have released : Releases l .irqSerial u (txRelease u) :=
    ⟨rfl, last.thr, last.tsr, cursor, rfl, rfl, rfl, rfl⟩
  refine ⟨txRelease u, ?_, rfl, rfl, rfl, cursor, last.emitting.wire_of_releases released, last.ring, last.mem⟩
  refine runOps_cons.mpr ⟨_, exec_transmit_of_idle p l live idle, ?_⟩
  exact (runOps_append rounds).trans (runOps_cons.mpr ⟨_, release, rfl⟩)

/-- The steps a session still needs: three for each byte not yet written, two for one in the holding register and one
for one in the shift register. -/
def State.stepsLeft (s : State) : Nat :=
  3 * (s.tx.len.toNat - s.tx.cursor.toNat) + 2 * s.ser.thr.toList.length + s.ser.tsr.toList.length

/-- The step that is sure to move a session on: SER_DONE for a byte in the shift register, else SER_LOAD for a byte in
the holding register, else a TXSTEP. -/
def Serial.due (p : Serial) : Instr :=
  if p.tsr.isSome then .serDone else if p.thr.isSome then .serLoad else .irqSerial

section fair

variable {p l : Word} {i : Instr} {s t : State}

/-- The registers decide which step is due. -/
theorem Serial.due_cases (p : Serial) :
    ((∃ b, p.tsr = some b) ∧ p.due = .serDone) ∨
    (p.tsr = none ∧ (∃ b, p.thr = some b) ∧ p.due = .serLoad) ∨
    (p.tsr = none ∧ p.thr = none ∧ p.due = .irqSerial) := by
  unfold Serial.due
  cases p.tsr <;> cases p.thr <;> simp

/-- The due step is enabled, so a session is never stuck. -/
theorem Session.due_enabled (session : Session p l s) : enabled s.ser.due s = true := by
  rcases s.ser.due_cases with ⟨shifting, due⟩ | ⟨empty, held, due⟩ | ⟨-, thr, due⟩ <;> rw [due]
  · exact Serial.doneEnabled_iff.mpr shifting
  · exact Serial.loadEnabled_iff.mpr ⟨held, empty⟩
  · exact State.irqSerial_iff.mpr (.inr ⟨session.ie, thr⟩)

/-- The step leaves the session where it is: it is not the due one, which stays due. -/
structure Stalls (i : Instr) (s t : State) : Prop where
  notDue : i ≠ s.ser.due
  due : t.ser.due = s.ser.due
  stepsLeft : t.stepsLeft = s.stepsLeft

theorem Stalls.of_line (notDue : i ≠ s.ser.due) (cursor : t.tx.cursor = s.tx.cursor) (len : t.tx.len = s.tx.len)
    (line : LineHolds t s.ser.thr s.ser.tsr s.ser.tsrDir s.wire) : Stalls i s t where
  notDue := notDue
  due := by rw [Serial.due, line.thr, line.tsr, Serial.due]
  stepsLeft := by rw [State.stepsLeft, cursor, len, line.thr, line.tsr, State.stepsLeft]

/-- An operation that moves no byte on is not the due step. -/
theorem MovesNoByte.ne_due (still : MovesNoByte i s) (session : Session p l s) : i ≠ s.ser.due := by
  rcases s.ser.due_cases with ⟨-, due⟩ | ⟨-, -, due⟩ | ⟨-, thr, due⟩ <;> rw [due]
  · exact still.noDone
  · exact still.noLoad
  · exact fun op => nomatch (still.noTxStep op).symm.trans (session.txCondition thr)

/-- A step of a session releases it, moves it on or stalls. -/
theorem Session.exec_progress (session : Session p l s) (h : exec i s = .next t) :
    Releases l i s t ∨ Session p l t ∧ (t.stepsLeft < s.stepsLeft ∨ Stalls i s t) := by
  rcases (session.exec_cases h).symm with release | goesOn
  · exact .inl release
  refine .inr ⟨goesOn, ?_⟩
  cases exec_txMove h with
  | clear before => exact nomatch before.symm.trans session.live
  | start p l op live idle => exact absurd idle session.busy
  | release _ _ _ _ tx => exact absurd (by rw [tx]; rfl) goesOn.busy
  | keep _ _ still tx line => exact .inr (.of_line (still.ne_due session) (by rw [tx]) (by rw [tx]) line)
  | wait op _ _ shifting tx line =>
    have notDue : i ≠ s.ser.due := by
      obtain ⟨b, hb⟩ := Option.ne_none_iff_exists'.mp shifting
      simp [op, Serial.due, hb]
    exact .inr (.of_line notDue (by rw [tx]; rfl) (by rw [tx]; rfl) line)
  | write _ on more tx line =>
    obtain ⟨-, thr⟩ := State.txCondition_iff.mp on
    have next := toNat_add_one_of_lt more
    left
    simp only [State.stepsLeft, line.thr, line.tsr, tx, txWriteByte_tx, thr, next, Option.toList_some,
      Option.toList_none, List.length_singleton, List.length_nil]
    bv_omega
  | load b _ held empty tx line => exact .inl (by simp [State.stepsLeft, line.thr, line.tsr, tx, held, empty])
  | finish b _ shifting tx line => exact .inl (by simp [State.stepsLeft, line.thr, line.tsr, tx, shifting])

/-- In a fair execution the due step does not stay due for ever without occurring. -/
theorem Fair.due {ops : Nat → Instr} {st : Nat → State} (fair : Fair ops st) (q : Serial) :
    weaklyFair q.due ops st := by
  obtain ⟨irqSerial, -, serLoad, serDone⟩ := fair
  rcases q.due_cases with ⟨-, due⟩ | ⟨-, -, due⟩ | ⟨-, -, due⟩ <;> rwa [due]

variable {ops : Nat → Instr} {st : Nat → State} {n : Nat}

/-- A session does not stall for ever in a fair execution. -/
theorem Session.not_stalls_forever (fair : Fair ops st)
    (session : ∀ m, n ≤ m → Session p l (st m)) : ¬ ∀ m, n ≤ m → Stalls (ops m) (st m) (st (m + 1)) := by
  intro stalls
  have due : ∀ m, n ≤ m → (st m).ser.due = (st n).ser.due := fun m fromN => by
    induction m, fromN using Nat.le_induction with
    | base => rfl
    | succ m fromN ih => exact (stalls m fromN).due.trans ih
  obtain ⟨m, fromN, occurs⟩ := fair.due (st n).ser n fun m fromN => due m fromN ▸ (session m fromN).due_enabled
  exact (stalls m fromN).notDue (occurs.trans (due m fromN).symm)

/-- A session stays in flight as long as no step releases it. -/
theorem Session.until_release (run : Execution ops st) (session : Session p l (st n)) {m : Nat} (fromN : n ≤ m)
    (before : ∀ k, n ≤ k → k < m → ¬ Releases l (ops k) (st k) (st (k + 1))) : Session p l (st m) := by
  induction m, fromN using Nat.le_induction with
  | base => exact session
  | succ m fromN ih =>
    have now := ih fun k fromN below => before k fromN (by omega)
    exact (now.exec_cases (run m)).resolve_right (before m fromN (by omega))

/-- In a fair execution some step releases the session: otherwise it would stall from the state on in which it has the
fewest steps left. -/
theorem Session.exists_release (run : Execution ops st) (fair : Fair ops st) (session : Session p l (st n)) :
    ∃ m, n ≤ m ∧ Releases l (ops m) (st m) (st (m + 1)) := by
  by_contra never
  have noRelease : ∀ m, n ≤ m → ¬ Releases l (ops m) (st m) (st (m + 1)) :=
    fun m fromN release => never ⟨m, fromN, release⟩
  have inFlight : ∀ m, n ≤ m → Session p l (st m) := fun m fromN =>
    session.until_release run fromN fun k fromN _ => noRelease k fromN
  obtain ⟨f, fromN, fewest⟩ : ∃ f, n ≤ f ∧ ∀ m, n ≤ m → (st f).stepsLeft ≤ (st m).stepsLeft := by
    obtain ⟨f, fromN, fewest⟩ := WellFounded.has_min (measure fun m => (st m).stepsLeft).wf {m | n ≤ m} ⟨n, le_refl n⟩
    exact ⟨f, fromN, fun m fromN => Nat.le_of_not_lt (fewest m fromN)⟩
  have stalls : ∀ m, f ≤ m → (st m).stepsLeft = (st f).stepsLeft → Stalls (ops m) (st m) (st (m + 1)) :=
    fun m fromF least => by
      obtain ⟨-, progress⟩ :=
        ((inFlight m (by omega)).exec_progress (run m)).resolve_left (noRelease m (by omega))
      have notFewer := fewest (m + 1) (by omega)
      exact progress.resolve_left (by omega)
  have least : ∀ m, f ≤ m → (st m).stepsLeft = (st f).stepsLeft := fun m fromF => by
    induction m, fromF using Nat.le_induction with
    | base => rfl
    | succ m fromF ih => exact (stalls m fromF ih).stepsLeft.trans ih
  exact Session.not_stalls_forever fair (fun m fromF => inFlight m (by omega))
    fun m fromF => stalls m fromF (least m fromF)

/-- In a fair execution a session is released, and stays in flight until then. -/
theorem Session.first_release (run : Execution ops st) (fair : Fair ops st) (session : Session p l (st n)) :
    ∃ m, n ≤ m ∧ Releases l (ops m) (st m) (st (m + 1)) ∧ ∀ k, n ≤ k → k ≤ m → Session p l (st k) := by
  classical
  have release := session.exists_release run fair
  obtain ⟨fromN, first⟩ := Nat.find_spec release
  refine ⟨Nat.find release, fromN, first, fun k fromN within => ?_⟩
  exact session.until_release run fromN fun j fromN below same =>
    Nat.find_min release (by omega) ⟨fromN, same⟩

/-- What a session emits, along an execution in which the caller keeps its duty (42_txseq.md R164). -/
theorem Emitting.along {s₀ : State} {m : Nat} (run : Execution ops st) (emitting : Emitting s₀ p l (st n))
    (fromN : n ≤ m) (session : ∀ k, n ≤ k → k ≤ m → Session p l (st k))
    (duty : ∀ k, k ≤ m → ¬ writesBuffer (ops k) p l) : Emitting s₀ p l (st m) := by
  induction m, fromN using Nat.le_induction with
  | base => exact emitting
  | succ m fromN ih =>
    have now := ih (fun k fromN within => session k fromN (by omega)) fun k within => duty k (by omega)
    exact now.after_exec (session m fromN (by omega)) (run m) (duty m (by omega))

end fair

/-- Settles O31: the session that the first step starts is released, and by then it has emitted the whole buffer. -/
theorem fairSessionCompletes : Obligations.FairSessionCompletes := by
  unfold Obligations.FairSessionCompletes
  intro ops st p l run fair inv live idle start
  have started := run 0
  rw [start, exec_transmit_of_idle p l live idle] at started
  injection started with started
  have session : Session p l (st 1) := started ▸ inv.session_start p l live idle
  have emitting : Emitting (st 0) p l (st 1) := started ▸ inv.emitting_start p l idle
  obtain ⟨n, from1, release, inFlight⟩ := session.first_release run fair
  refine ⟨n, from1, release.idle, release.pin, fun m from1 within => ?_, fun duty => ?_⟩
  · exact ⟨(inFlight m from1 within).busy, (inFlight m from1 within).pin⟩
  · exact ⟨(emitting.along run from1 inFlight duty).wire_of_releases release, release.wire⟩

end Sys2Proof.Machine
end

section
/-! The commands INIT, POLL and RDREG, and the block before INIT (43_controller.md R183 to R188). -/

namespace Sys2Proof.Machine

/-- The one successful INIT (43_controller.md R186). -/
theorem exec_init_of_not_initialized {s : State} (n d : Word) (before : s.ctl.initialized = false) :
    exec (.init n d) s = .next (respond (emit (initialised s n d) (.peInit n)) .ok 0) := by
  simp only [exec, execInit, before, Bool.false_eq_true, if_false]

/-- What a guarded command runs after INIT (line 4 of 30_encoding.md R103). -/
theorem ifInitialized_of_initialized {s : State} (run : State) (live : s.ctl.initialized = true) :
    ifInitialized s run = .next run :=
  if_pos live

/-- Settles O36: the check, then the event appended. -/
theorem pollNotifiesTheEngine : Obligations.PollNotifiesTheEngine := by
  unfold Obligations.PollNotifiesTheEngine
  exact fun s => ⟨fun before => exec_of_not_initialized before (by decide), ifInitialized_of_initialized _⟩

/-- RDREG of a number above the register file (43_controller.md R188). -/
theorem exec_rdreg_of_no_register {n : Word} {s : State} (above : 0x0E < n.toNat) :
    exec (.rdreg n) s = .next (respond s .badReg 0) := by
  simp only [exec, execRdreg, readReg_none s above]

/-- RDREG of a number in the register file answers OK with the register's value (43_controller.md R188). -/
theorem exec_rdreg_in_file {n : Word} (s : State) (inFile : n.toNat ≤ 0x0E) :
    ∃ v, readReg s n.toNat = some v ∧ exec (.rdreg n) s = .next (respond s .ok v) := by
  obtain ⟨v, hv⟩ := readReg_some s inFile
  exact ⟨v, hv, exec_rdreg_of_register hv⟩

/-- Settles O37: the answer is the row of the register file that the number names, and no row stands above `0x0E`. -/
theorem rdregReadsTheRegisterFile : Obligations.RdregReadsTheRegisterFile := by
  unfold Obligations.RdregReadsTheRegisterFile
  refine fun n s => ⟨exec_rdreg_of_no_register, fun inFile => ?_⟩
  obtain ⟨v, hv, answer⟩ := exec_rdreg_in_file s inFile
  have row {m : Word} {u : Word} (register : readReg s m.toNat = some u) (named : n = m) : v = u :=
    Option.some.inj (hv.symm.trans (named ▸ register))
  exact ⟨v, answer, row rfl, row rfl, row rfl, row rfl, row rfl, row rfl, row rfl, row rfl, row rfl, row rfl, row rfl,
    row rfl, row rfl, row rfl, row rfl⟩

section beforeInit

variable {s : State} (inv : ControlInv s) (before : s.ctl.initialized = false)
include inv before

/-- Before INIT the ring is as after reset (43_controller.md R185). -/
theorem ControlInv.ring_of_before : s.ring = (State.resetWith s.cfg).ring := by
  have ring := congrArg State.ring (inv.beforeInit before)
  exact ring

/-- Before INIT the counter is as after reset (43_controller.md R185). -/
theorem ControlInv.tmr_of_before : s.tmr = (State.resetWith s.cfg).tmr := by
  have tmr := congrArg State.tmr (inv.beforeInit before)
  exact tmr

/-- Before INIT no byte is in a transmit register (43_controller.md R185). -/
theorem ControlInv.transmitRegisters_of_before : s.ser.thr = none ∧ s.ser.tsr = none := by
  have ser := congrArg State.ser (inv.beforeInit before)
  rw [ser]
  exact ⟨rfl, rfl⟩

/-- Before INIT no event has reached the protocol engine (43_controller.md R180). -/
theorem ControlInv.peLog_of_before : s.peLog = [] := by
  have peLog := congrArg State.peLog (inv.beforeInit before)
  exact peLog

/-- Before INIT, INIT leaves STATUS with `initialized` and the three enables, and no other flag (10_state.md R32,
43_controller.md R186). -/
theorem ControlInv.statusReg_initialised (n d : Word) : (initialised s n d).statusReg = 0x000000E1 := by
  simp only [State.statusReg, initialised_ctl, initialised_ring, initialised_tx, inv.ring_of_before before,
    inv.tx_of_before before, resetWith_ring, resetWith_tx]
  decide

/-- Before INIT, INIT starts the clock at 0 (43_controller.md R186, 40_clock.md R120). -/
theorem ControlInv.elapsed_initialised (n d : Word) : (initialised s n d).elapsed = 0 := by
  simp [State.elapsed, clk_eq_add, inv.tmr_of_before before]

/-- Before INIT no line is raised (10_state.md R51, 43_controller.md R185). -/
theorem ControlInv.lines_of_before : s.irqSerial = false ∧ s.irqTimer = false := by
  have rxIe : s.ctl.rxIe = false := inv.rxEnable.trans before
  have ovfIe : s.ctl.ovfIe = false := inv.ovfEnable.trans before
  have txIe : s.tx.ie = false := by rw [inv.tx_of_before before]; rfl
  simp [State.irqSerial, State.rxCondition, State.txCondition, State.irqTimer, rxIe, ovfIe, txIe]

/-- Before INIT nothing but a command and MEM_WR is enabled (43_controller.md R185). -/
theorem ControlInv.enabled_of_before {i : Instr} (noCommand : i.format ≠ .command) :
    enabled i s = true ↔ ∃ a v, i = .memWr a v := by
  obtain ⟨irqSerial, irqTimer⟩ := inv.lines_of_before before
  have tmrRun : s.ctl.tmrRun = false := inv.running.trans before
  obtain ⟨thr, tsr⟩ := inv.transmitRegisters_of_before before
  cases i with
  | init | pop | len | transmit | now | poll | rdreg => exact absurd rfl noCommand
  | irqSerial => simp [enabled, irqSerial]
  | irqTimer => simp [enabled, irqTimer]
  | tmrTick => simp [enabled, tmrRun]
  | serRx => simp [enabled, before]
  | serLoad => simp [enabled, Serial.loadEnabled, thr]
  | serDone => simp [enabled, Serial.doneEnabled, tsr]
  | memWr a v => simp [enabled]

end beforeInit

/-- Settles O34: the check, the assignments of INIT, and what they make of a state that is as after reset. -/
theorem initSetsUpTheBlockOnce : Obligations.InitSetsUpTheBlockOnce := by
  unfold Obligations.InitSetsUpTheBlockOnce
  refine fun n d s => ⟨exec_init_of_initialized n d, fun before =>
    ⟨_, exec_init_of_not_initialized n d before, rfl, fun inv => ⟨?_, ?_, ?_⟩⟩⟩
  · exact inv.control.statusReg_initialised before n d
  · exact inv.control.elapsed_initialised before n d
  · simp [inv.control.peLog_of_before before]

/-- Settles O35: the refused commands, the inspection, and for the rest the enabling conditions. -/
theorem beforeInitOnlyInitAndRdregWork : Obligations.BeforeInitOnlyInitAndRdregWork := by
  unfold Obligations.BeforeInitOnlyInitAndRdregWork
  refine fun s inv before => ⟨fun i guarded => exec_of_not_initialized before ?_, fun n inFile => ?_,
    fun i event t h => ?_, fun i environment => ?_⟩
  · rcases guarded with listed | ⟨p, l, rfl⟩
    · have opcodes : ∀ j ∈ [Instr.pop, .len, .now, .poll], j.opcode ∈ [0x02, 0x03, 0x04, 0x05, (0x06 : Byte)] := by
        decide
      exact opcodes i listed
    · simp [Instr.opcode]
  · obtain ⟨v, -, answer⟩ := exec_rdreg_in_file s inFile
    exact ⟨_, answer, rfl⟩
  · have enabled : enabled i s = true := enabled_iff_exec_next.mpr ⟨t, h⟩
    obtain ⟨a, v, rfl⟩ := (inv.control.enabled_of_before before (by simp [event])).mp enabled
    exact nomatch event
  · rw [← enabled_iff_exec_next]
    exact inv.control.enabled_of_before before (by simp [environment])

end Sys2Proof.Machine
end

section
/-! IRQ_SERIAL as its two parts: neither reads what the other writes (43_controller.md R190 to R192). -/

namespace Sys2Proof.Machine

/-- The RX part of IRQ_SERIAL does not read what the TX part writes (43_controller.md R192). -/
theorem serveRx_tx (s : State) (x : TxSeq) (b : Option Byte) :
    serveRx { s with tx := x, ser := { s.ser with thr := b } } =
      { serveRx s with tx := x, ser := { (serveRx s).ser with thr := b } } := by
  have ready : State.rxCondition { s with tx := x, ser := { s.ser with thr := b } } = s.rxCondition := rfl
  unfold serveRx
  rw [ready]
  split <;> rfl

/-- A state with what each part of the handler writes on its own (43_controller.md R191). -/
def servedApart (s : State) : State :=
  { s with
    ring := (serveRx s).ring
    tx := (serveTx s).tx
    ser := { s.ser with rxReady := (serveRx s).ser.rxReady, thr := (serveTx s).ser.thr } }

theorem serveTx_serveRx_eq (s : State) : serveTx (serveRx s) = servedApart s := by
  rw [serveTx_serveRx]
  conv_lhs => rw [serveTx_frame s]
  rfl

theorem serveRx_serveTx_eq (s : State) : serveRx (serveTx s) = servedApart s := by
  conv_lhs => rw [serveTx_frame s, serveRx_tx, serveRx_frame s]
  rfl

/-- Settles O41: in either order the parts write what each writes on its own. -/
theorem subBehavioursCommute : Obligations.SubBehavioursCommute := by
  unfold Obligations.SubBehavioursCommute
  intro s
  have commute : serveTx (serveRx s) = serveRx (serveTx s) :=
    (serveTx_serveRx_eq s).trans (serveRx_serveTx_eq s).symm
  exact ⟨commute, fun line => exec_irqSerial.mpr ⟨line, commute.symm⟩⟩

/-- With the RX condition off, the handler's RX part does nothing (43_controller.md R191). -/
theorem serveRx_of_not_rxCondition {s : State} (off : s.ctl.rxIe = false ∨ s.ser.rxReady = false) : serveRx s = s :=
  if_neg (Bool.eq_false_iff.mp (Bool.and_eq_false_iff.mpr off))

/-- The serial handler stops where it is not enabled (10_state.md R51, log entry 4). -/
theorem exec_irqSerial_fault {s : State} (off : ∀ t, exec .irqSerial s ≠ .next t) :
    exec .irqSerial s = .fault .irqSerialNotEnabled :=
  ifEnabled_fault (Bool.eq_false_of_not_eq_true fun line => off _ (exec_irqSerial.mpr ⟨line, rfl⟩))

/-- Settles O40: the line, then each part by its own condition; the parts write nothing else. -/
theorem serialHandlerServesEnabledConditions : Obligations.SerialHandlerServesEnabledConditions := by
  unfold Obligations.SerialHandlerServesEnabledConditions
  refine fun s => ⟨enabled_iff_exec_next.symm.trans State.irqSerial_iff, exec_irqSerial_fault, fun t h => ?_⟩
  obtain ⟨-, rfl⟩ := exec_irqSerial.mp h
  rw [serveTx_serveRx_eq, servedApart]
  refine ⟨fun enable ready => ?_, fun off => ?_, fun enable empty => ?_, fun off => ?_, rfl, rfl, rfl, rfl, rfl, rfl,
    rfl, rfl, rfl, rfl, rfl, rfl, fun a => rfl⟩
  · rw [serveRx_of_rxCondition (Bool.and_eq_true_iff.mpr ⟨enable, ready⟩)]
    exact ⟨rfl, rfl⟩
  · rw [serveRx_of_not_rxCondition off]
    exact ⟨rfl, rfl⟩
  · rw [serveTx_of_txCondition (State.txCondition_iff.mpr ⟨enable, empty⟩)]
    exact ⟨rfl, rfl⟩
  · rw [serveTx_of_not_txCondition (by rcases off with off | off <;> simp [off])]
    exact ⟨rfl, rfl⟩

end Sys2Proof.Machine
end

section
/-! The environment steps: what each writes where it is enabled, and where it stops (44_environment.md R201 to R208). -/

namespace Sys2Proof.Machine

/-- Settles O46: MEM_WR writes through the byte store, which keeps its canonical form. -/
theorem memWrWritesOneByte : Obligations.MemWrWritesOneByte := by
  unfold Obligations.MemWrWritesOneByte
  exact fun a v s => ⟨memWrite s a v, exec_memWr.mpr rfl, rfl, fun x => memRead_memWrite s a x v,
    fun wf => Memory.write_wf v wf a.isLt⟩

theorem Timer.tick_of_not_last {modulus : Nat} {t : Timer} (notLast : t.cnt ≠ modulus - 1) :
    t.tick modulus = { t with cnt := t.cnt + 1 } :=
  if_neg notLast

theorem Timer.tick_of_last {modulus : Nat} {t : Timer} (last : t.cnt = modulus - 1) :
    t.tick modulus = { cnt := 0, ovf := true, ovfLost := t.ovfLost || t.ovf } :=
  if_pos last

/-- Settles O43: the guard, then the counter below its last value and at it. -/
theorem tickCountsAndWraps : Obligations.TickCountsAndWraps := by
  unfold Obligations.TickCountsAndWraps
  refine fun s => ⟨ifEnabled_fault, fun run notLast => exec_tmrTick.mpr ⟨run, ?_⟩,
    fun run last noOverflow => exec_tmrTick.mpr ⟨run, ?_⟩, fun run last pending => exec_tmrTick.mpr ⟨run, ?_⟩⟩
  · rw [Timer.tick_of_not_last notLast]
  · rw [Timer.tick_of_last last, noOverflow, Bool.or_false]
  · simp only [Timer.tick_of_last last, pending, Bool.or_true]

theorem Serial.arrive_of_not_rxReady {p : Serial} (b : Byte) (empty : p.rxReady = false) :
    p.arrive b = { p with rdr := b, rxReady := true } :=
  if_neg (Bool.eq_false_iff.mp empty)

theorem Serial.arrive_of_rxReady {p : Serial} (b : Byte) (unread : p.rxReady = true) :
    p.arrive b = { p with rxLost := true } :=
  if_pos unread

/-- After SER_RX an unread byte is held, the new one or the one before it (44_environment.md R203, R204). -/
@[simp] theorem Serial.arrive_rxReady (p : Serial) (b : Byte) : (p.arrive b).rxReady = true := by
  cases ready : p.rxReady with
  | false => rw [arrive_of_not_rxReady b ready]
  | true => rw [arrive_of_rxReady b ready, ready]

/-- Settles O44: the guard, then the data register empty and full; either way a byte waits, and the RX enable is on. -/
theorem arrivingByteIsHeldOrLost : Obligations.ArrivingByteIsHeldOrLost := by
  unfold Obligations.ArrivingByteIsHeldOrLost
  refine fun b s => ⟨ifEnabled_fault, fun live empty => exec_serRx.mpr ⟨live, ?_⟩,
    fun live unread => exec_serRx.mpr ⟨live, ?_⟩, fun live inv => ⟨_, exec_serRx.mpr ⟨live, rfl⟩, ?_⟩⟩
  · rw [Serial.arrive_of_not_rxReady b empty]
  · rw [Serial.arrive_of_rxReady b unread]
  · have enable : s.ctl.rxIe = true := inv.control.rxEnable.trans live
    exact State.irqSerial_iff.mpr (.inl ⟨enable, Serial.arrive_rxReady s.ser b⟩)

/-- SER_LOAD stops while there is no byte to load or no room for it (44_environment.md R205, log entry 4). -/
theorem exec_serLoad_fault {s : State} (off : s.ser.thr = none ∨ s.ser.tsr ≠ none) :
    exec .serLoad s = .fault .serLoadNotEnabled := by
  refine ifEnabled_fault (Bool.eq_false_of_not_eq_true fun loadable => ?_)
  obtain ⟨⟨b, held⟩, empty⟩ := Serial.loadEnabled_iff.mp loadable
  rcases off with noByte | shifting
  · exact nomatch noByte.symm.trans held
  · exact shifting empty

/-- `intact` (10_state.md R50) is 1 iff both directions are Transmit. -/
theorem Dir.asserted_and_asserted (d e : Dir) :
    (d.asserted && e.asserted) = decide (d = .transmit ∧ e = .transmit) := by
  rw [Bool.eq_iff_iff, Bool.and_eq_true, decide_eq_true_iff, asserted_iff, asserted_iff]

/-- Settles O45: each of the two steps where its register holds a byte, and where it stops. -/
theorem shiftRegisterLoadsAndFinishes : Obligations.ShiftRegisterLoadsAndFinishes := by
  unfold Obligations.ShiftRegisterLoadsAndFinishes
  refine fun s b => ⟨fun held empty => ?_, exec_serLoad_fault, fun shifting => ?_, fun empty => ?_⟩
  · exact exec_serLoad.mpr ⟨Serial.loadEnabled_iff.mpr ⟨⟨b, held⟩, empty⟩, by rw [loadShift, held]⟩
  · exact exec_serDone.mpr ⟨b, shifting, by rw [finishByte, Dir.asserted_and_asserted]⟩
  · exact exec_serDone_fault (Option.isSome_eq_false_iff.mpr (Option.isNone_iff_eq_none.mpr empty))

end Sys2Proof.Machine
end

section
/-! What is sticky: the ghost fault bits, and the error flags with their counters (44_environment.md R209, 10_state.md
R29, R30). -/

namespace Sys2Proof.Machine

theorem State.noFault_iff {s : State} : s.noFault = true ↔ s.tmr.ovfLost = false ∧ s.ser.rxLost = false := by
  simp [State.noFault]

theorem State.noFault_eq_false_iff {s : State} : s.noFault = false ↔ s.tmr.ovfLost = true ∨ s.ser.rxLost = true := by
  simp only [State.noFault, Bool.and_eq_false_iff, Bool.not_eq_false']

/-- A step keeps an error counter and its flag, or counts one error and sets the flag (10_state.md R29). -/
def KeepsOrCounts (cnt cnt' : Word) (flag flag' : Bool) : Prop :=
  (cnt' = cnt ∧ flag' = flag) ∨ (cnt' = cnt + 1 ∧ flag' = true)

section counter

variable {cnt cnt' : Word} {flag flag' : Bool}

theorem KeepsOrCounts.sticky (h : KeepsOrCounts cnt cnt' flag flag') (isSet : flag = true) : flag' = true := by
  rcases h with ⟨-, kept⟩ | ⟨-, raised⟩
  · exact kept.trans isSet
  · exact raised

theorem KeepsOrCounts.moves (h : KeepsOrCounts cnt cnt' flag flag') :
    cnt' = cnt ∨ (cnt' = cnt + 1 ∧ flag' = true) :=
  h.imp_left And.left

end counter

section step

variable {i : Instr} {s t : State}

/-- A tick keeps a set fault bit (44_environment.md R202). -/
theorem Timer.tick_keeps_ovfLost {x : Timer} (modulus : Nat) (lost : x.ovfLost = true) :
    (x.tick modulus).ovfLost = true := by
  by_cases last : x.cnt = modulus - 1
  · rw [tick_of_last last, lost, Bool.true_or]
  · rw [tick_of_not_last last, lost]

/-- An arriving byte keeps a set fault bit (44_environment.md R204). -/
theorem Serial.arrive_keeps_rxLost {p : Serial} (b : Byte) (lost : p.rxLost = true) : (p.arrive b).rxLost = true := by
  cases ready : p.rxReady with
  | false => rw [arrive_of_not_rxReady b ready, lost]
  | true => rw [arrive_of_rxReady b ready]

/-- Of the two operations that write the counter, the handler leaves the fault bit alone (40_clock.md R124). -/
theorem exec_keeps_ovfLost (h : exec i s = .next t) (lost : s.tmr.ovfLost = true) : t.tmr.ovfLost = true := by
  obtain ⟨-, -, -, -, -, -, -, -, -, -, -, -, -, tmr, -⟩ := everyElementHasItsWriters i s t h
  cases i with
  | tmrTick =>
    obtain ⟨-, rfl⟩ := exec_tmrTick.mp h
    exact Timer.tick_keeps_ovfLost _ lost
  | irqTimer =>
    obtain ⟨-, rfl⟩ := exec_irqTimer.mp h
    exact lost
  | init | pop | len | transmit | now | poll | rdreg | irqSerial | serRx | serLoad | serDone | memWr =>
    rwa [tmr nofun nofun]

/-- Of the operations that write the peripheral, SER_RX alone writes the fault bit (44_environment.md R204). -/
theorem exec_keeps_rxLost (h : exec i s = .next t) (lost : s.ser.rxLost = true) : t.ser.rxLost = true := by
  obtain ⟨-, -, -, -, -, -, -, -, -, -, -, -, -, -, ser, -⟩ := everyElementHasItsWriters i s t h
  cases i with
  | irqSerial =>
    obtain ⟨-, rfl⟩ := exec_irqSerial.mp h
    rwa [serveTx_serveRx_eq]
  | serRx b =>
    obtain ⟨-, rfl⟩ := exec_serRx.mp h
    exact Serial.arrive_keeps_rxLost b lost
  | serLoad =>
    obtain ⟨-, rfl⟩ := exec_serLoad.mp h
    exact lost
  | serDone =>
    obtain ⟨b, -, rfl⟩ := exec_serDone.mp h
    exact lost
  | init | pop | len | transmit | now | poll | rdreg | irqTimer | tmrTick | memWr =>
    rwa [ser nofun nofun nofun nofun]

/-- `no_fault` once false stays false (44_environment.md R209). -/
theorem exec_keeps_fault (h : exec i s = .next t) (fault : s.noFault = false) : t.noFault = false :=
  State.noFault_eq_false_iff.mpr
    ((State.noFault_eq_false_iff.mp fault).imp (exec_keeps_ovfLost h) (exec_keeps_rxLost h))

/-- Only a dropped byte counts as an overrun (41_ring.md R143). -/
theorem exec_counts_overrun (h : exec i s = .next t) :
    KeepsOrCounts s.ring.overrunCnt t.ring.overrunCnt s.ring.overrun t.ring.overrun := by
  cases exec_ringMove h with
  | drop _ _ ring => rw [ring]; exact .inr ⟨rfl, rfl⟩
  | keep ring | clear _ ring | accept _ _ ring | remove _ _ ring => rw [ring]; exact .inl ⟨rfl, rfl⟩

/-- Only a rejected TRANSMIT counts as busy (42_txseq.md R163). -/
theorem exec_counts_busy (h : exec i s = .next t) :
    KeepsOrCounts s.tx.busyCnt t.tx.busyCnt s.tx.busyErr t.tx.busyErr := by
  obtain ⟨-, -, -, -, -, -, -, -, -, -, -, -, busy, -⟩ := everyElementHasItsWriters i s t h
  cases i with
  | transmit p l =>
    rcases exec_transmit h with ⟨-, rfl⟩ | ⟨-, -, rfl⟩ | ⟨-, -, rfl⟩
    · exact .inl ⟨rfl, rfl⟩
    · exact .inl ⟨rfl, rfl⟩
    · exact .inr ⟨rfl, rfl⟩
  | init | pop | len | now | poll | rdreg | irqSerial | irqTimer | tmrTick | serRx | serLoad | serDone | memWr =>
    exact .inl (busy nofun)

end step

/-- Settles O55: each bit by its writers, and each counter together with its flag. -/
theorem faultBitsAndErrorFlagsAreSticky : Obligations.FaultBitsAndErrorFlagsAreSticky := by
  unfold Obligations.FaultBitsAndErrorFlagsAreSticky
  refine ⟨fun s => State.noFault_iff, fun i s t h => ?_⟩
  have overrun := exec_counts_overrun h
  have busy := exec_counts_busy h
  exact ⟨exec_keeps_ovfLost h, exec_keeps_rxLost h, exec_keeps_fault h, overrun.sticky, busy.sticky,
    exec_keeps_live h, overrun.moves, busy.moves⟩

end Sys2Proof.Machine
end

section
/-! A step that runs no operation: the fetch refuses, or has nothing to hand on (60_exceptions.md R241, U8). -/

namespace Sys2Proof.Machine

theorem step_illFormed {s : State} (h : ¬ s.cfg.wf) : step s = .refused .illFormedConfig := by
  simp only [step, fetch_illFormed h]

theorem step_nothing {s : State} (h : s.cfg.wf) (hs : s.schedule = []) : step s = .next s := by
  simp only [step, fetch_nothing h hs]

/-- Settles O9: `step` passes on the fetch's refusal, and the state of a fetch that found no entry. -/
theorem stepWithoutAnOperation : Obligations.StepWithoutAnOperation := by
  unfold Obligations.StepWithoutAnOperation
  exact fun s => ⟨step_illFormed, step_nothing⟩

end Sys2Proof.Machine
end

section
/-! Every operation and every step keeps the invariant, part by part (70_reset_and_hazards.md R270 to R274,
43_controller.md R185). -/

namespace Sys2Proof.Machine

section exec

variable {i : Instr} {s t : State}

/-- A count that is 0 while its flag is down stays so (10_state.md R29). -/
theorem KeepsOrCounts.keeps_zero {cnt cnt' : Word} {flag flag' : Bool} (h : KeepsOrCounts cnt cnt' flag flag')
    (zero : flag = false → cnt = 0) (down : flag' = false) : cnt' = 0 := by
  rcases h with ⟨cntKept, flagKept⟩ | ⟨-, raised⟩
  · exact cntKept.trans (zero (flagKept.symm.trans down))
  · exact nomatch down.symm.trans raised

/-- PUSH alone writes the ring's storage, at an index in range (41_ring.md R142). -/
theorem RingInv.exec_keeps_slots (inv : RingInv s) (h : exec i s = .next t) :
    Memory.wf s.cfg.capacity t.ring.slots := by
  cases exec_ringMove h with
  | accept _ _ ring => rw [ring]; exact Memory.write_wf _ inv.slots inv.headRange
  | keep ring | clear _ ring | drop _ _ ring | remove _ _ ring => rw [ring]; exact inv.slots

theorem State.Inv.exec_ringInv (inv : s.Inv) (h : exec i s = .next t) : RingInv t := by
  obtain ⟨head, tail, ahead, behind⟩ := (inv.fifoInv.after_exec h).ordered
  exact
    { headRange := head
      tailRange := tail
      aheadSameLap := ahead
      behindOtherLap := behind
      slots := exec_keeps_cfg h ▸ inv.ring.exec_keeps_slots h
      overrunFlag := (exec_counts_overrun h).keeps_zero inv.ring.overrunFlag }

/-- The transmit side at rest (70_reset_and_hazards.md R272, R273). -/
structure TxIdle (s : State) : Prop where
  idle : s.tx.state = .idle
  ie : s.tx.ie = false
  pin : s.tx.dir = .receive
  thr : s.ser.thr = none
  tsr : s.ser.tsr = none

theorem TxInv.txIdle (inv : TxInv s) (idle : s.tx.state = .idle) : TxIdle s := by
  obtain ⟨thr, tsr⟩ := inv.idlePeripheral idle
  exact ⟨idle, inv.idleIffDisabled.mp idle, inv.idleIffReceive.mp idle, thr, tsr⟩

/-- A released session leaves the transmit side at rest (rows T6 and T9 of 42_txseq.md R160). -/
theorem Session.txIdle_of_releases {p l : Word} (session : Session p l s) (release : Releases l i s t)
    (h : exec i s = .next t) : TxIdle t := by
  obtain ⟨rfl, thr, tsr, cursor, idle, pin, ie, -⟩ := release
  have all : ¬ s.tx.cursor < s.tx.len := by rw [cursor, session.len]; exact BitVec.lt_irrefl _
  obtain ⟨r, b, step⟩ := exec_irqSerial_of_txCondition (session.txCondition thr)
  rw [txStep_of_drained all thr tsr] at step
  cases h.symm.trans step
  exact ⟨rfl, rfl, rfl, thr, tsr⟩

/-- A transmit side at rest leaves its rest only by an accepted TRANSMIT (row T1 of 42_txseq.md R160). -/
theorem State.Inv.exec_of_idle (inv : s.Inv) (idle : s.tx.state = .idle) (h : exec i s = .next t) :
    TxIdle t ∨ ∃ p l, Session p l t := by
  have off := inv.tx.not_txCondition_of_idle idle
  obtain ⟨-, ie, pin, thr, tsr⟩ := inv.tx.txIdle idle
  cases exec_txMove h with
  | keep _ _ _ tx line =>
    exact .inl ⟨by rw [tx, idle], by rw [tx, ie], by rw [tx, pin], line.thr.trans thr, line.tsr.trans tsr⟩
  | clear _ tx line => exact .inl ⟨by rw [tx], by rw [tx], by rw [tx], line.thr.trans thr, line.tsr.trans tsr⟩
  | start p l op live =>
    subst op
    cases h.symm.trans (exec_transmit_of_idle p l live idle)
    exact .inr ⟨p, l, inv.session_start p l live idle⟩
  | write _ on | release _ on | wait _ on => exact nomatch off.symm.trans on
  | load _ _ held => exact nomatch thr.symm.trans held
  | finish _ _ shifting => exact nomatch tsr.symm.trans shifting

/-- A step leaves the transmit side at rest or in a session. -/
theorem State.Inv.exec_txIdle_or_session (inv : s.Inv) (h : exec i s = .next t) :
    TxIdle t ∨ ∃ p l, Session p l t := by
  by_cases idle : s.tx.state = .idle
  · exact inv.exec_of_idle idle h
  · have session := inv.session idle
    rcases session.exec_cases h with goesOn | release
    · exact .inr ⟨_, _, goesOn⟩
    · exact .inl (session.txIdle_of_releases release h)

/-- How the cursor and the transmit registers follow the sequencer's state (70_reset_and_hazards.md R272, R273). -/
structure TxProgress (s : State) : Prop where
  filling : s.tx.state = .filling → s.tx.cursor < s.tx.len ∨ s.tx.len = 0
  draining : s.tx.state = .draining → s.tx.cursor = s.tx.len
  freshSession : s.tx.state = .filling → s.tx.cursor = 0 → s.ser.thr = none ∧ s.ser.tsr = none

/-- At rest there is no progress to account for. -/
theorem TxProgress.of_idle (idle : s.tx.state = .idle) : TxProgress s := by
  constructor <;> simp [idle]

/-- Each row of 42_txseq.md R160 enters its next state with the cursor and the registers that belong to it. -/
theorem TxInv.exec_progress (inv : TxInv s) (h : exec i s = .next t) : TxProgress t := by
  cases exec_txMove h with
  | clear _ tx => exact .of_idle (by rw [tx])
  | release _ _ _ _ tx => exact .of_idle (by rw [tx, txRelease_tx])
  | keep _ _ _ tx line =>
    constructor <;> rw [tx]
    · exact inv.filling
    · exact inv.draining
    · rw [line.thr, line.tsr]
      exact inv.freshSession
  | start p l _ _ idle tx ser =>
    constructor <;> rw [tx, startSession_tx]
    · intro _
      bv_omega
    · nofun
    · rw [ser]
      exact fun _ _ => inv.idlePeripheral idle
  | write _ _ more tx =>
    by_cases last : s.tx.cursor + 1 = s.tx.len
    · constructor <;> rw [tx, txWriteByte_tx, if_pos last]
      · nofun
      · exact fun _ => last
      · nofun
    · obtain ⟨below, moved⟩ : s.tx.cursor + 1 < s.tx.len ∧ s.tx.cursor + 1 ≠ 0 := by bv_omega
      constructor <;> rw [tx, txWriteByte_tx, if_neg last]
      · exact fun _ => .inl below
      · nofun
      · exact fun _ fresh => absurd fresh moved
  | wait _ _ all _ tx =>
    constructor <;> rw [tx, txWait_tx]
    · nofun
    · have cursorLe := inv.cursorLe
      intro _
      bv_omega
    · nofun
  | load b _ held _ tx =>
    constructor <;> rw [tx]
    · exact inv.filling
    · exact inv.draining
    · exact fun filling fresh => nomatch held.symm.trans (inv.freshSession filling fresh).1
  | finish b _ shifting tx line =>
    constructor <;> rw [tx]
    · exact inv.filling
    · exact inv.draining
    · exact fun filling fresh => nomatch shifting.symm.trans (inv.freshSession filling fresh).2

/-- A byte leaves the shift register with the pin at Transmit from its first bit to its last (70_reset_and_hazards.md
R274). -/
theorem TxInv.exec_keeps_wireIntact (inv : TxInv s) (h : exec i s = .next t) : ∀ p ∈ t.wire, p.2 = true := by
  cases exec_txMove h with
  | finish b _ shifting _ line =>
    have full : s.ser.tsr ≠ none := by simp [shifting]
    rw [line.wire, inv.shiftedUnderTransmit full, inv.underTransmit (.inr full)]
    simpa [Dir.asserted, or_imp, forall_and] using inv.wireIntact
  | start _ _ _ _ _ _ _ wire => rw [wire]; exact inv.wireIntact
  | keep _ _ _ _ line | clear _ _ line | write _ _ _ _ line | release _ _ _ _ _ line | wait _ _ _ _ _ line
  | load _ _ _ _ _ line => rw [line.wire]; exact inv.wireIntact

theorem State.Inv.exec_txInv (inv : s.Inv) (h : exec i s = .next t) : TxInv t := by
  obtain ⟨filling, draining, freshSession⟩ := inv.tx.exec_progress h
  have cursorLe := exec_keeps_cursor_le inv.tx.cursorLe h
  have wireIntact := inv.tx.exec_keeps_wireIntact h
  have busyFlag := (exec_counts_busy h).keeps_zero inv.tx.busyFlag
  rcases inv.exec_txIdle_or_session h with ⟨idle, ie, pin, thr, tsr⟩ | ⟨p, l, session⟩
  · exact
      { cursorLe, filling, draining, freshSession, wireIntact, busyFlag
        idleIffDisabled := by simp [idle, ie]
        idleIffReceive := by simp [idle, pin]
        idlePeripheral := fun _ => ⟨thr, tsr⟩
        underTransmit := by simp [thr, tsr]
        shiftedUnderTransmit := by simp [tsr] }
  · exact
      { cursorLe, filling, draining, freshSession, wireIntact, busyFlag
        idleIffDisabled := by simp [session.busy, session.ie]
        idleIffReceive := by simp [session.busy, session.pin]
        idlePeripheral := fun idle => absurd idle session.busy
        underTransmit := fun _ => session.pin
        shiftedUnderTransmit := session.shiftedPin }

/-- All that a step can do to the initialisation record and the calls of the protocol engine (43_controller.md R180,
R183). -/
inductive ControlMove (s t : State) : Prop
  | keep (ctl : t.ctl = s.ctl) (peLog : t.peLog = s.peLog)
  /-- The one successful INIT (43_controller.md R186). -/
  | init (n d : Word) (before : s.ctl.initialized = false) (ctl : t.ctl = (initialised s n d).ctl)
      (peLog : t.peLog = s.peLog ++ [.peInit n])
  /-- POLL after INIT (43_controller.md R187). -/
  | poll (ctl : t.ctl = s.ctl) (live : s.ctl.initialized = true) (peLog : t.peLog = s.peLog ++ [.peUpdate])

/-- Every step makes one of the moves. -/
theorem exec_controlMove (h : exec i s = .next t) : ControlMove s t := by
  obtain ⟨-, -, -, -, -, -, ctl, -, -, -, -, -, -, -, -, -, peLog⟩ := everyElementHasItsWriters i s t h
  cases i with
  | init n d =>
    rcases exec_init h with ⟨-, rfl⟩ | ⟨before, rfl⟩
    · exact .keep rfl rfl
    · exact .init n d before rfl rfl
  | poll =>
    rcases exec_poll h with ⟨-, rfl⟩ | ⟨live, rfl⟩
    · exact .keep rfl rfl
    · exact .poll rfl live rfl
  | pop | len | transmit | now | rdreg | irqSerial | irqTimer | tmrTick | serRx | serLoad | serDone | memWr =>
    exact .keep (ctl nofun) (peLog nofun nofun)

/-- The enables follow `initialized` (10_state.md R27). -/
theorem ControlInv.exec_enables (inv : ControlInv s) (h : exec i s = .next t) :
    t.ctl.rxIe = t.ctl.initialized ∧ t.ctl.ovfIe = t.ctl.initialized ∧ t.ctl.tmrRun = t.ctl.initialized := by
  cases exec_controlMove h with
  | keep ctl | poll ctl => rw [ctl]; exact ⟨inv.rxEnable, inv.ovfEnable, inv.running⟩
  | init n d _ ctl => rw [ctl]; exact ⟨rfl, rfl, rfl⟩

/-- The engine's initialiser call comes first, and once (43_controller.md R180, R183). -/
theorem ControlInv.exec_engineLog (inv : ControlInv s) (h : exec i s = .next t) (live : t.ctl.initialized = true) :
    ∃ updates, t.peLog = .peInit t.ctl.nodeId :: updates ∧ ∀ e ∈ updates, e = .peUpdate := by
  cases exec_controlMove h with
  | keep ctl peLog => rw [ctl] at live ⊢; rw [peLog]; exact inv.engineLog live
  | init n d before ctl peLog => exact ⟨[], by rw [peLog, inv.peLog_of_before before, ctl]; rfl, nofun⟩
  | poll ctl live peLog =>
    obtain ⟨updates, log, all⟩ := inv.engineLog live
    refine ⟨updates ++ [.peUpdate], by rw [peLog, log, ctl, List.cons_append], fun e he => ?_⟩
    rcases List.mem_append.mp he with earlier | last
    · exact all e earlier
    · exact List.mem_singleton.mp last

/-- The response is one of 30_encoding.md R99: a command writes one, and no other operation writes the port. -/
theorem ControlInv.exec_response (inv : ControlInv s) (h : exec i s = .next t) :
    ∃ st : Status, t.port.rspStatus = st.code ∧ (st ≠ .ok → t.port.rspData = 0) := by
  by_cases command : i.format = .command
  · obtain ⟨u, st, d, rfl, -, data⟩ := exec_command_responds command h
    refine ⟨st, rfl, fun notOk => ?_⟩
    by_contra nonzero
    obtain ⟨ok, -⟩ := data nonzero
    exact notOk ok
  · obtain ⟨-, -, -, -, port, -⟩ := everyElementHasItsWriters i s t h
    rw [port command]
    exact inv.response

/-- A step that leaves the block uninitialised writes the response or application memory, and nothing else
(43_controller.md R185). -/
theorem ControlInv.exec_of_before (inv : ControlInv s) (h : exec i s = .next t) (before : t.ctl.initialized = false) :
    t = { s with port := t.port, mem := t.mem } := by
  have notYet : s.ctl.initialized = false := exec_ctl_of_before h before ▸ before
  by_cases command : i.format = .command
  · cases i with
    | init n d =>
      cases h.symm.trans (exec_init_of_not_initialized n d notYet)
      exact nomatch before
    | rdreg n => rcases exec_rdreg h with ⟨v, -, rfl⟩ | ⟨-, rfl⟩ <;> rfl
    | pop | len | transmit | now | poll =>
      cases h.symm.trans (exec_of_not_initialized notYet (by simp [Instr.opcode]))
      rfl
    | irqSerial | irqTimer | tmrTick | serRx | serLoad | serDone | memWr => nomatch command
  · obtain ⟨a, v, rfl⟩ := (inv.enabled_of_before notYet command).mp (enabled_iff_exec_next.mpr ⟨t, h⟩)
    cases exec_memWr.mp h
    rfl

theorem ControlInv.exec_beforeInit (inv : ControlInv s) (h : exec i s = .next t)
    (before : t.ctl.initialized = false) : t.asAfterReset := by
  have asReset := inv.beforeInit (exec_ctl_of_before h before ▸ before)
  rw [inv.exec_of_before h before]
  unfold State.asAfterReset at asReset ⊢
  rw [asReset]
  rfl

theorem ControlInv.after_exec (inv : ControlInv s) (h : exec i s = .next t) : ControlInv t := by
  obtain ⟨rxEnable, ovfEnable, running⟩ := inv.exec_enables h
  exact
    { rxEnable := rxEnable
      ovfEnable := ovfEnable
      running := running
      beforeInit := inv.exec_beforeInit h
      response := inv.exec_response h
      engineLog := inv.exec_engineLog h }

/-- The counter stays below its modulus (44_environment.md R201). -/
theorem Timer.tick_cnt_lt {modulus : Nat} {x : Timer} (below : x.cnt < modulus) : (x.tick modulus).cnt < modulus := by
  by_cases last : x.cnt = modulus - 1
  · rw [tick_of_last last]
    exact Nat.zero_lt_of_lt below
  · rw [tick_of_not_last last]
    exact show x.cnt + 1 < modulus by omega

/-- The tick alone moves the counter; the timer handler reads it (20_memory.md R73, 40_clock.md R124). -/
theorem exec_keeps_counter_lt (below : s.tmr.cnt < s.cfg.counterModulus) (h : exec i s = .next t) :
    t.tmr.cnt < s.cfg.counterModulus := by
  obtain ⟨-, -, -, -, -, -, -, -, -, -, -, -, -, tmr, -⟩ := everyElementHasItsWriters i s t h
  cases i with
  | tmrTick =>
    obtain ⟨-, rfl⟩ := exec_tmrTick.mp h
    exact Timer.tick_cnt_lt below
  | irqTimer =>
    obtain ⟨-, rfl⟩ := exec_irqTimer.mp h
    exact below
  | init | pop | len | transmit | now | poll | rdreg | irqSerial | serRx | serLoad | serDone | memWr =>
    rwa [tmr nofun nofun]

/-- MEM_WR alone writes application memory, at an address of 32 bits (20_memory.md R73, 44_environment.md R208). -/
theorem exec_keeps_memory_wf (wf : Memory.wf (2 ^ 32) s.mem) (h : exec i s = .next t) :
    Memory.wf (2 ^ 32) t.mem := by
  obtain ⟨-, -, -, -, -, mem, -⟩ := everyElementHasItsWriters i s t h
  cases i with
  | memWr a v =>
    cases exec_memWr.mp h
    exact Memory.write_wf v wf a.isLt
  | init | pop | len | transmit | now | poll | rdreg | irqSerial | irqTimer | tmrTick | serRx | serLoad | serDone =>
    rwa [mem nofun]

theorem State.Inv.after_exec (inv : s.Inv) (h : exec i s = .next t) : t.Inv where
  config := (exec_keeps_cfg h).symm ▸ inv.config
  ring := inv.exec_ringInv h
  tx := inv.exec_txInv h
  control := inv.control.after_exec h
  counter := (exec_keeps_cfg h).symm ▸ exec_keeps_counter_lt inv.counter h
  memory := exec_keeps_memory_wf inv.memory h

end exec

section step

variable {s t : State}

/-- A step runs the operation that the fetch hands on, or takes over the fetch's own answer. -/
theorem step_cases (h : step s = .next t) :
    fetch s = .next (none, t) ∨ ∃ i u, fetch s = .next (some i, u) ∧ exec i u = .next t := by
  unfold step at h
  split at h
  case h_1 i u fetched => exact .inr ⟨i, u, fetched, h⟩
  case h_2 u fetched => cases h; exact .inl fetched
  case h_3 | h_4 => exact nomatch h

/-- An entry reaches the latches and, where the port refuses it, the response; nothing else (30_encoding.md R97, log
entry 9). -/
theorem State.Inv.after_fetchEntry {e : Entry} {o : Option Instr} (inv : s.Inv)
    (h : fetchEntry e s = .next (o, t)) : t.Inv := by
  cases e with
  | word w =>
    cases decoded : decode w with
    | ok i =>
      cases h.symm.trans (fetchEntry_word s decoded)
      split
      · exact Inv.latchOperands inv w
      · exact inv
    | error reserved =>
      cases reserved
      exact nomatch h.symm.trans (fetchEntry_malformed s decoded)
  | port w =>
    cases decoded : decodeCommand w with
    | some i =>
      cases h.symm.trans (fetchEntry_port s decoded)
      exact Inv.latchOperands inv w
    | none =>
      cases h.symm.trans (fetchEntry_illegal s decoded)
      exact Inv.respond (Inv.latchOperands inv w) fun _ => rfl

theorem State.Inv.after_fetch {o : Option Instr} (inv : s.Inv) (h : fetch s = .next (o, t)) : t.Inv := by
  cases schedule : s.schedule with
  | nil =>
    cases h.symm.trans (fetch_nothing inv.config schedule)
    exact inv
  | cons e rest =>
    rw [fetch_entry inv.config schedule] at h
    exact (Inv.withSchedule inv rest).after_fetchEntry h

theorem State.Inv.after_step (inv : s.Inv) (h : step s = .next t) : t.Inv := by
  rcases step_cases h with answered | ⟨i, u, fetched, ran⟩
  · exact inv.after_fetch answered
  · exact (inv.after_fetch fetched).after_exec ran

end step

/-- Settles O50: an operation keeps each part of the invariant, and the fetch before it keeps them all. -/
theorem everyStepKeepsTheInvariant : Obligations.EveryStepKeepsTheInvariant := by
  unfold Obligations.EveryStepKeepsTheInvariant
  exact ⟨fun i s t => State.Inv.after_exec, fun s t => State.Inv.after_step⟩

end Sys2Proof.Machine
end

section
/-! What holds in every reachable state, and in a quiescent one (70_reset_and_hazards.md R270, R272 to R274, R284). -/

namespace Sys2Proof.Machine

/-- Reset meets the invariant and every operation keeps it. -/
theorem State.reachable.inv {s : State} (reachable : s.reachable) : s.Inv := by
  obtain ⟨c, ops, wf, run⟩ := reachable
  exact runOps_induct (P := State.Inv) (fun _ _ _ => State.Inv.after_exec) (resetMeetsTheInvariant c wf) run

/-- Settles O51: the invariant's two index ranges. -/
theorem reachableIndicesInRange : Obligations.ReachableIndicesInRange := by
  unfold Obligations.ReachableIndicesInRange
  exact fun s reachable => ⟨reachable.inv.ring.headRange, reachable.inv.ring.tailRange⟩

/-- `tx_state` has three codes (10_state.md R25). -/
theorem TxState.code_ne_three (q : TxState) : q.code ≠ 3 := by
  cases q <;> decide

/-- Settles O52: the invariant's account of the sequencer; STATUS shows the code of one of its three states. -/
theorem reachableSequencerIsConsistent : Obligations.ReachableSequencerIsConsistent := by
  unfold Obligations.ReachableSequencerIsConsistent
  intro s reachable
  have tx := reachable.inv.tx
  refine ⟨tx.idleIffDisabled, tx.idleIffDisabled.symm.trans tx.idleIffReceive, tx.cursorLe, tx.filling, tx.draining, ?_⟩
  rw [statusReg_state]
  exact s.tx.state.code_ne_three

/-- A TRANSMIT that answers OK to an idle block is an accepted one, and raises the line at once
(70_reset_and_hazards.md R273). -/
theorem State.Inv.irqSerial_of_transmit_ok {s t : State} {p l : Word} (inv : s.Inv) (idle : s.tx.state = .idle)
    (h : exec (.transmit p l) s = .next t) (ok : t.port.rspStatus = 0x00) : t.irqSerial = true := by
  rcases exec_transmit h with ⟨-, rfl⟩ | ⟨-, -, rfl⟩ | ⟨-, busy, -⟩
  · exact absurd ok (by simp [Status.code])
  · exact irqSerial_startSession (s := s) p l inv idle
  · exact absurd idle busy

/-- A TXSTEP of a Filling session with nothing left to write is the first of a zero-length session, and finds both
registers empty: row T7 of 42_txseq.md R160 is never taken (70_reset_and_hazards.md R273). -/
theorem TxInv.txComplete_of_filled {s : State} (inv : TxInv s) (filling : s.tx.state = .filling)
    (all : s.tx.len ≤ s.tx.cursor) : s.ser.txComplete = true := by
  have fresh : s.tx.cursor = 0 := by
    have progress := inv.filling filling
    have cursorLe := inv.cursorLe
    bv_omega
  exact Serial.txComplete_iff.mpr (inv.freshSession filling fresh)

/-- Settles O53: the idle peripheral, the line an accepted TRANSMIT raises, and the row no state takes. -/
theorem reachableIdleMeansPeripheralIdle : Obligations.ReachableIdleMeansPeripheralIdle := by
  unfold Obligations.ReachableIdleMeansPeripheralIdle
  intro s reachable
  have inv := reachable.inv
  refine ⟨fun idle => ?_, fun idle p l t => inv.irqSerial_of_transmit_ok idle, ?_⟩
  · obtain ⟨thr, tsr⟩ := inv.tx.idlePeripheral idle
    exact ⟨thr, tsr, Serial.txReady_iff.mpr thr, Serial.txComplete_iff.mpr ⟨thr, tsr⟩⟩
  · rintro ⟨filling, -, all, shifting⟩
    exact nomatch shifting.symm.trans (inv.tx.txComplete_of_filled filling all)

/-- Settles O54: the invariant's account of the pin and the wire. -/
theorem reachableBytesAreUnderTransmit : Obligations.ReachableBytesAreUnderTransmit := by
  unfold Obligations.ReachableBytesAreUnderTransmit
  intro s reachable
  have tx := reachable.inv.tx
  exact ⟨tx.underTransmit, tx.shiftedUnderTransmit, tx.wireIntact⟩

theorem State.quiescent_iff {s : State} : s.quiescent = true ↔
    s.irqSerial = false ∧ s.irqTimer = false ∧ s.ser.thr = none ∧ s.ser.tsr = none := by
  simp [State.quiescent, and_assoc]

/-- A session with an empty holding register raises the line (10_state.md R51). -/
theorem State.Inv.idle_of_quiet {s : State} (inv : s.Inv) (quiet : s.irqSerial = false) (thr : s.ser.thr = none) :
    s.tx.state = .idle := by
  by_contra busy
  obtain ⟨ie, -⟩ := Inv.busy inv busy
  exact nomatch quiet.symm.trans (State.irqSerial_iff.mpr (.inr ⟨ie, thr⟩))

/-- Settles O57: a session would raise the line; the lines and the empty registers disable the other operations. -/
theorem quiescentStateIsIdle : Obligations.QuiescentStateIsIdle := by
  unfold Obligations.QuiescentStateIsIdle
  intro s inv quiescent
  obtain ⟨serialLine, timerLine, thr, tsr⟩ := State.quiescent_iff.mp quiescent
  have idle := inv.idle_of_quiet serialLine thr
  refine ⟨idle, inv.tx.idleIffReceive.mp idle, fun i on => ?_⟩
  cases i with
  | init | pop | len | transmit | now | poll | rdreg => exact .inl rfl
  | tmrTick => exact .inr (.inl rfl)
  | serRx b => exact .inr (.inr (.inl ⟨b, rfl⟩))
  | memWr a v => exact .inr (.inr (.inr ⟨a, v, rfl⟩))
  | irqSerial => exact nomatch serialLine.symm.trans on
  | irqTimer => exact nomatch timerLine.symm.trans on
  | serLoad => simp [enabled, Serial.loadEnabled, thr] at on
  | serDone => simp [enabled, Serial.doneEnabled, tsr] at on

end Sys2Proof.Machine
end

section
/-! The indices, the lap bits, the occupancy and the overrun counter along every run (70_reset_and_hazards.md R271). -/

namespace Sys2Proof.Machine

/-- R271 said of the ring: `head` and `tail` stand at the positions of the byte stream that the accepted and the
returned bytes have reached, and the dropped bytes are counted modulo `2^32` and flagged. -/
structure Ring.Counts (c accepted returned dropped : Nat) (r : Ring) : Prop where
  head : (r.head, r.headLap) = indexAt c accepted
  tail : (r.tail, r.tailLap) = indexAt c returned
  overrunCnt : r.overrunCnt = BitVec.ofNat 32 dropped
  overrun : r.overrun = decide (0 < dropped)

section counts

variable {c accepted returned dropped : Nat} {r : Ring}

theorem resetWith_counts (c : Config) : (State.resetWith c).ring.Counts c.capacity 0 0 0 := by
  constructor <;> simp [indexAt]

/-- A stored byte moves `head` to the next position (41_ring.md R142). -/
theorem Ring.Counts.accept (h : r.Counts c accepted returned dropped) (positive : 0 < c) (b : Byte) :
    (r.accept c b).Counts c (accepted + 1) returned dropped where
  head := by
    have head := adv_indexAt positive accepted
    rwa [← h.head] at head
  tail := h.tail
  overrunCnt := h.overrunCnt
  overrun := h.overrun

/-- A removed byte moves `tail` to the next position (41_ring.md R146). -/
theorem Ring.Counts.remove (h : r.Counts c accepted returned dropped) (positive : 0 < c) :
    (r.remove c).Counts c accepted (returned + 1) dropped where
  head := h.head
  tail := by
    have tail := adv_indexAt positive returned
    rwa [← h.tail] at tail
  overrunCnt := h.overrunCnt
  overrun := h.overrun

/-- A dropped byte moves no index (41_ring.md R143). -/
theorem Ring.Counts.drop (h : r.Counts c accepted returned dropped) :
    r.drop.Counts c accepted returned (dropped + 1) where
  head := h.head
  tail := h.tail
  overrunCnt := by rw [Ring.drop_overrunCnt, h.overrunCnt, BitVec.ofNat_add]; rfl
  overrun := by simp

end counts

section run

variable {accepted returned dropped : Nat} {s t : State}

/-- The one successful INIT finds the ring as after reset, and so leaves it as it is (43_controller.md R185, R186). -/
theorem ControlInv.cleared_ring (inv : ControlInv s) (before : s.ctl.initialized = false) :
    { s.ring with head := 0, headLap := false, tail := 0, tailLap := false } = s.ring := by
  rw [inv.ring_of_before before]
  rfl

/-- A step counts the bytes its observers see. -/
theorem State.Inv.exec_counts {i : Instr} (inv : s.Inv)
    (counts : s.ring.Counts s.cfg.capacity accepted returned dropped) (h : exec i s = .next t) :
    t.ring.Counts t.cfg.capacity (accepted + (acceptedByte i s t).length) (returned + (returnedByte i s t).length)
      (dropped + (droppedByte i s t).length) := by
  have positive : 0 < s.cfg.capacity := Nat.zero_lt_of_lt inv.ring.headRange
  rw [exec_keeps_cfg h]
  cases exec_ringMove h with
  | keep ring traffic => rwa [ring, traffic.accepted, traffic.returned, traffic.dropped]
  | clear before ring traffic =>
    rwa [ring, inv.control.cleared_ring before, traffic.accepted, traffic.returned, traffic.dropped]
  | accept _ _ ring traffic =>
    rw [ring, traffic.accepted, traffic.returned, traffic.dropped]
    exact counts.accept positive _
  | drop _ _ ring traffic =>
    rw [ring, traffic.accepted, traffic.returned, traffic.dropped]
    exact counts.drop
  | remove _ _ ring traffic =>
    rw [ring, traffic.accepted, traffic.returned, traffic.dropped]
    exact counts.remove positive

/-- A run counts the bytes of its steps. -/
theorem State.Inv.runOps_counts {ops : List Instr} (inv : s.Inv)
    (counts : s.ring.Counts s.cfg.capacity accepted returned dropped) (h : runOps ops s = .next t) :
    t.ring.Counts t.cfg.capacity (accepted + (observe acceptedByte ops s).length)
      (returned + (observe returnedByte ops s).length) (dropped + (observe droppedByte ops s).length) := by
  induction ops generalizing s accepted returned dropped with
  | nil => cases h; exact counts
  | cons i ops ih =>
    obtain ⟨u, step, rest⟩ := runOps_cons.mp h
    simp only [observe_cons step, List.length_append, ← Nat.add_assoc]
    exact ih (inv.after_exec step) (inv.exec_counts counts step) rest

/-- The configuration is fixed (00_scope.md R6 to R11). -/
theorem runOps_keeps_cfg {ops : List Instr} (h : runOps ops s = .next t) : t.cfg = s.cfg :=
  runOps_induct (P := fun u => u.cfg = s.cfg) (fun _ _ _ kept step => (exec_keeps_cfg step).trans kept) rfl h

/-- The unread bytes are `occ()` many (10_state.md R23). -/
theorem State.length_unread (s : State) : s.unread.length = s.ring.occ s.cfg.capacity := by
  simp [State.unread]

end run

/-- Settles O23: the counts along the run from an empty ring, and the occupancy from R147's balance of the bytes. -/
theorem ringCountsAlongEveryRun : Obligations.RingCountsAlongEveryRun := by
  unfold Obligations.RingCountsAlongEveryRun
  rintro c ops t accepted returned dropped wf run rfl rfl rfl
  have inv := resetMeetsTheInvariant c wf
  have cfg : t.cfg = c := runOps_keeps_cfg run
  have counts := inv.runOps_counts (resetWith_counts c) run
  have balance := congrArg List.length (inv.fifoInv.runOps_balance run)
  have ended : RingInv t := (State.reachable.inv ⟨c, ops, wf, run⟩).ring
  simp only [List.length_append, State.length_unread, resetWith_occ, cfg, Nat.zero_add] at balance counts
  obtain ⟨head, tail, overrunCnt, overrun⟩ := counts
  obtain ⟨head, headLap⟩ := Prod.ext_iff.mp head
  obtain ⟨tail, tailLap⟩ := Prod.ext_iff.mp tail
  have most : t.ring.occ c.capacity ≤ c.capacity := Ring.occ_le (cfg ▸ ended.headRange) (cfg ▸ ended.tailRange)
  refine ⟨most, balance.symm, head, headLap, tail, tailLap, ?_, ?_⟩
  · rw [overrunCnt, BitVec.toNat_ofNat]
  · rw [overrun, decide_eq_true_iff]

end Sys2Proof.Machine
end
